-- ==== Sys2Proof/Config.lean ====
section
/-! DEFINITION. The constants the manual fixes for every device. The part comes in one variant (00_scope.md), and the
manual leaves no value open, so there is no free value here. -/

namespace Sys2Proof.Config

/-- Bit times of 100 ns in one millisecond (00_scope.md, Time). -/
def bitsPerMs : Nat := 10000

/-- Bit times in one unit of a trigger lead, 250 microseconds (00_scope.md, Time). -/
def bitsPerLead : Nat := 2500

/-- The gap, in bit times (R138). -/
def gapBits : Nat := 64

/-- Carrier that begins before this many quiet bit times stops the quiet count (R138). -/
def gapRestartBits : Nat := 40

/-- The jam, in bit times (R140). -/
def jamBits : Nat := 32

/-- A backoff slot, in bit times (R143). -/
def slotBits : Nat := 128

/-- Bits from the start of a drive to the end of the start byte (R137, R144). -/
def startBits : Nat := 40

/-- Bytes the receiver collects after the start byte (R145). -/
def runBytes : Nat := 54

/-- Failed attempts after which an entry is no longer kept (R123). -/
def maxAttempts : Nat := 12

/-- Consecutive failed echo checks that raise LINE_FAULT (R144). -/
def echoLimit : Nat := 3

/-- Places of the Transmit Queue (R116). -/
def txPlaces : Nat := 8

/-- Places of the Receive FIFO (R146). -/
def fifoPlaces : Nat := 4

/-- Places of the event queue (R168). -/
def eventPlaces : Nat := 32

/-- Samples the Profile Store has room for (R24). -/
def storeSamples : Nat := 1024

/-- The fade level a player begins its fade with, and the level of a PLAYING player (R35, R37). -/
def fullLevel : Nat := 8

/-- The factor of full motion (R71). -/
def fullFactor : Nat := 4096

/-- The greatest cue value; the least is its negative (00_scope.md, Cue values). -/
def cueMax : Int := 32767

/-- The age of a channel with no VALID entry, and the largest age shown (R20). -/
def ageMax : Nat := 65535

/-- The greatest value of a 16-bit saturating counter (R147, R96). -/
def counterMax : Nat := 65535

/-- The output period of a code, in bit times; a code above 3 is taken as 3 (R47). -/
def periodBits (code : Nat) : Nat :=
  match code with
  | 0 => 5000
  | 1 => 10000
  | 2 => 20000
  | _ => 40000

end Sys2Proof.Config
end

