-- ==== Sys2Proof/Word.lean ====
section
/-! DEFINITION. The words of the local port and of the cue line, and the 32-bit period count. -/

namespace Sys2Proof

/-- A byte of a transaction or of a burst. -/
abbrev Byte := BitVec 8

/-- A two-byte parameter, most significant byte first (R155). -/
abbrev Word16 := BitVec 16

/-- The period count, which wraps from its largest value to 0 (R47). -/
abbrev Count := BitVec 32

end Sys2Proof
end

