-- ==== Sys2Proof/Syntax.lean ====
section
/-! DEFINITION. The commands of the block: one constructor per row of spec/opcode_table.json. The table gives no operands;
each row's operands are read from its rule. Local port commands carry their parameter bytes as R165 lays them out. An operand
`t` is the line-time instant, in bit times, at which an outside event takes place (log entry 3). -/

namespace Sys2Proof

/-- One (channel, gain) slot of DEFINE AXIS (R50, R165). -/
structure TapSlot where
  channel : Byte
  gain : Word16
  deriving DecidableEq, Repr, Inhabited

/-- The order in which the two hand-overs of a merge pass are taken (R56, R64): the Output Stage's step first, or the
Excursion Monitor first. -/
inductive HandOverOrder where
  | stepFirst
  | monitorFirst
  deriving DecidableEq, Repr, Inhabited

inductive Instr where
  -- pins
  /-- POWER_ON_RESET: RST_N is released at `t` (R164). -/
  | powerOnReset (t : Nat)
  /-- HALT_N_CHANGE: HALT_N takes the level `low` at `t` (R63). -/
  | haltNChange (t : Nat) (low : Bool)
  -- local port
  /-- UNKNOWN_COMMAND: a command byte that names no command (R155). -/
  | unknownCommand (code : Byte)
  /-- TRANSACTION_END: SEL_N rises after `clocked` whole response bytes (R155, R162). -/
  | transactionEnd (clocked : Nat)
  | setStation (station role : Byte) (seed : Word16)
  | setTiming (period levelInterval holdAfter refresh : Byte) (silence forget : Word16)
      (stale window persist : Byte)
  | defineChannel (channel policy produce rank : Byte) (deadband fadeStep : Word16)
  | defineAxis (axis tapCount : Byte) (slot0 slot1 slot2 slot3 : TapSlot)
      (slew clip warn hysteresis hardLimit : Word16) (hardCount : Byte)
  | storeProfile (profile stretch endMode : Byte) (length : Word16) (samples : List Word16)
  | profileWriteComplete
  | clearProfiles
  | setStage (ease park rise : Word16) (roles : Byte)
  | routeAlerts (cls route : Byte)
  | join (t : Nat)
  | leave (t : Nat)
  | restart (t : Nat)
  | quiet
  | speak (t : Nat)
  | post (count : Byte) (pairs : List (Byte × Word16))
  | fire (t : Nat) (channel event profile amplitude priority lead : Byte)
  | cancel (t : Nat) (event : Byte)
  | askMode (t : Nat) (mode : Byte)
  | status
  | takeOutput
  | takeChannels
  | peer (station : Byte)
  | takeEvents
  -- timers
  /-- OUTPUT_PERIOD_EXPIRY: a merge pass with its hand-overs in this order; a pass that is not `whole` is left open before
  its publish stage, so that commands can fall during it (R48, R49, R56; log entries 1 and 6). -/
  | outputPeriodExpiry (order : HandOverOrder) (whole : Bool)
  | silenceTimerExpiry (station : Nat)
  | forgetTimerExpiry (station : Nat)
  | assemblyTimeLimit (station : Nat)
  | announceHoldOffExpiry
  | joinWindowExpiry
  | levelIntervalExpiry
  | refreshTimerExpiry
  /-- STALE_DEADLINE: the deadline of the entry `index` places behind the current one passes (R125). -/
  | staleDeadline (index : Nat)
  -- cue line
  | carrierStart (t : Nat)
  | gapEnd
  /-- ECHO_CHECK: `heard` says whether the receiver has seen carrier since the drive began (R144). -/
  | echoCheck (heard : Bool)
  /-- COLLISION: the read-back differs first at bit `bit` of the drive, counted from the first preamble bit (R140). -/
  | collision (bit : Nat)
  | jamEnd
  | backoffWaitEnd
  | attemptCompletes
  | leaveCompletion
  /-- RUN_END: carrier ends at `t`; `bits` are what the receiver read of the run, one bit of each bit time, first to last
(R137, R145). -/
  | runEnd (t : Nat) (bits : List Bool)
  | applyBurst
  | rstNFall
  deriving DecidableEq, Repr

end Sys2Proof
end

