-- ==== Sys2Proof/Machine/State.lean ====
section
/-! DEFINITION. The state of the block: every register, table, queue, timer, flag and pin the manual names, as plain data,
and the value each takes after power-on reset. Cue values are integers (00_scope.md, Cue values); instants and limits are
natural numbers of bit times; only what the manual treats as bits is a bit vector. -/

namespace Sys2Proof.Machine

/-! ### Names the manual gives to states, modes and codes -/

/-- A mode request, ordered LIVE < EASE < PARK (R2). -/
inductive Mode where
  | live | ease | park
  deriving DecidableEq, Repr, Inhabited

/-- The Output Stage's position (R71). -/
inductive Stage where
  | live | easing | parked | rising
  deriving DecidableEq, Repr, Inhabited

/-- The node's lifecycle (section 6.6). -/
inductive NodeState where
  | config | joining | active | leaving | fault
  deriving DecidableEq, Repr, Inhabited

/-- This node's view of a station (section 6.5). -/
inductive Link where
  | absent | present | holding | lost
  deriving DecidableEq, Repr, Inhabited

/-- The role a talking station declares (00_scope.md, Stations). -/
inductive Role where
  | cab | vision | sound | instructor | aux
  deriving DecidableEq, Repr, Inhabited

/-- A channel's merge policy (R13). -/
inductive Policy where
  | sum | greatest | ranked
  deriving DecidableEq, Repr, Inhabited

/-- Whether a player stops or wraps at the end of a profile (section 2.1). -/
inductive EndMode where
  | once | loop
  deriving DecidableEq, Repr, Inhabited

/-- The alert route of an event class (R158). -/
inductive Route where
  | none | alertA | alertB
  deriving DecidableEq, Repr, Inhabited

/-- The class of an event kind (R167). -/
inductive EventClass where
  | peer | mode | cue | line | limit
  deriving DecidableEq, Repr, Inhabited

/-- The eighteen event kinds (R167). -/
inductive EventKind where
  | peerJoined | peerLost | peerReturned | peerLeft | peerForgotten | rankConflict
  | modeChanged | stageChanged | nodeState
  | triggerDropped
  | txDropped | badBurst | rxOverrun | duplicateStation | lineFault
  | warn | clip | hardTrip
  deriving DecidableEq, Repr, Inhabited

/-- Why a START item or a TRIGGER entry is dropped (R44, R167). -/
inductive DropReason where
  | unannounced | parked | noProfile | duplicate | noPlayer | stolen | stale
  deriving DecidableEq, Repr, Inhabited

/-- Why a received burst is rejected (R145, R167). -/
inductive BadReason where
  | length | crc | kind | format
  deriving DecidableEq, Repr, Inhabited

/-- Why a transmit entry is dropped (R124, R167). -/
inductive TxReason where
  | late | excessive
  deriving DecidableEq, Repr, Inhabited

/-- The result of a command (R156). -/
inductive Result where
  | ok | busy | state | param | full | empty
  deriving DecidableEq, Repr, Inhabited

/-! ### Settings -/

/-- The settings of SET TIMING (R47, R94, R135, R141). -/
structure Timing where
  periodCode : Nat := 1
  levelInterval : Nat := 2
  holdAfter : Nat := 8
  /-- The refresh interval in ms, also the announce hold-off (R105). -/
  refresh : Nat := 20
  /-- The silence limit in ms, also the assembly limit and the join window (R94). -/
  silence : Nat := 60
  forget : Nat := 1000
  stale : Nat := 10
  window : Nat := 8
  persist : Bool := false
  deriving DecidableEq, Repr, Inhabited

/-- A channel's configuration record (R13). -/
structure Channel where
  policy : Policy := .sum
  produce : Bool := false
  rank : Nat := 0
  deadband : Nat := 0
  fadeStep : Nat := 256
  deriving DecidableEq, Repr, Inhabited

/-- One tap of an axis: a channel and a gain in units of 1/4096 (R50). -/
structure Tap where
  channel : Nat
  gain : Int
  deriving DecidableEq, Repr, Inhabited

/-- An axis's configuration record (R50, R80). -/
structure Axis where
  taps : List Tap := []
  slew : Nat := 65534
  clip : Nat := 32767
  warn : Nat := 0
  hysteresis : Nat := 0
  hardLimit : Nat := 32767
  hardCount : Nat := 1
  deriving DecidableEq, Repr, Inhabited

/-- The settings of the node: kept by RESTART, LEAVE, JOIN and FAULT entry, put to these defaults by power-on reset (R158). -/
structure Settings where
  station : Nat := 0
  role : Option Role := none
  seed : BitVec 16 := 0
  timing : Timing := {}
  channels : List Channel := List.replicate 16 {}
  axes : List Axis := List.replicate 8 {}
  easeStep : Nat := 8
  parkStep : Nat := 64
  riseStep : Nat := 4
  /-- The required roles, in the order of their codes (R77). -/
  required : List Role := []
  deriving DecidableEq, Repr, Inhabited

/-! ### The Profile Store and the Player Bank -/

/-- A defined profile record (section 2.1). -/
structure Profile where
  start : Nat
  length : Nat
  stretch : Nat
  endMode : EndMode
  deriving DecidableEq, Repr, Inhabited

/-- A profile whose samples are being written (R25). -/
structure ProfileWrite where
  number : Nat
  stretch : Nat
  endMode : EndMode
  samples : List Int
  deriving DecidableEq, Repr, Inhabited

/-- The Profile Store (R24). `samples` are the positions written since power-on reset; those at or above `nextFree` are
unused (R26). -/
structure Store where
  samples : List Int := []
  profiles : List (Option Profile) := List.replicate 16 none
  nextFree : Nat := 0
  writing : Option ProfileWrite := none
  deriving DecidableEq, Repr, Inhabited

/-- The state of a player that is not FREE (section 2.2). -/
inductive PlayState where
  | armed | playing | fading
  deriving DecidableEq, Repr, Inhabited

/-- A player that is not FREE (section 2.2); a FREE player is `none`. -/
structure Player where
  state : PlayState
  source : Nat
  event : Nat
  channel : Nat
  profile : Nat
  amplitude : Nat
  priority : Nat
  start : Nat
  index : Nat
  stretchCount : Nat
  fadeLevel : Nat
  deriving DecidableEq, Repr, Inhabited

/-! ### The Source Table -/

/-- A source entry's state with its value, which is absent when EMPTY (section 1.1). -/
inductive Held where
  | empty
  | valid (v : Int)
  | fading (v : Int)
  deriving DecidableEq, Repr, Inhabited

/-- A source entry (section 1.1). -/
structure SourceEntry where
  station : Nat
  channel : Nat
  held : Held
  rank : Nat
  declared : Bool
  lastUpdate : Option Count
  deriving DecidableEq, Repr, Inhabited

/-! ### Bursts -/

/-- An item of a TRIGGER burst (R151). -/
inductive TriggerItem where
  | start (channel event profile amplitude priority lead : Nat)
  | cancel (event : Nat)
  deriving DecidableEq, Repr, Inhabited

/-- A declaration: a channel and a rank. -/
abbrev Declaration := Nat × Nat

/-- The payload of a burst (section 9.2). -/
inductive Payload where
  | page0 (count role : Nat) (known : BitVec 16) (decls : List Declaration)
  | page (index count : Nat) (decls : List Declaration)
  | level (pairs : List (Nat × Int))
  | trigger (items : List TriggerItem)
  | bye
  deriving DecidableEq, Repr, Inhabited

/-- A burst: its header fields and its payload (section 9.1). The kind and the payload length follow from the payload. -/
structure Burst where
  source : Nat
  seq : Nat
  request : Mode
  hold : Bool
  payload : Payload
  deriving DecidableEq, Repr, Inhabited

/-- A burst held in the Receive FIFO (R146). -/
structure FifoEntry where
  burst : Burst
  endInstant : Nat
  own : Bool
  deriving DecidableEq, Repr, Inhabited

/-! ### The Peer Table -/

/-- An announce group being gathered (section 6.1). -/
structure Assembly where
  expected : Nat
  next : Nat
  role : Nat
  decls : List Declaration
  known : BitVec 16
  startedAt : Nat
  deriving DecidableEq, Repr, Inhabited

/-- A station record (section 6.1). A timer holds the instant at which it started while it runs. -/
structure PeerRecord where
  self : Bool := false
  link : Link := .absent
  /-- The role; none when none was declared and when ABSENT. -/
  role : Option Role := none
  /-- The declared set in ascending channel order; empty when ABSENT. -/
  declared : List Declaration := []
  lastRequest : Option Mode := none
  expected : Option Nat := none
  silence : Option Nat := none
  forget : Option Nat := none
  gaps : Nat := 0
  losses : Nat := 0
  undeclared : Nat := 0
  assembly : Option Assembly := none
  deriving DecidableEq, Repr, Inhabited

/-- The announce state (R105). -/
inductive AnnounceState where
  | none | queued | begun
  deriving DecidableEq, Repr, Inhabited

/-- What the Peer Table keeps of this node's own announce groups (R105), and whether a group waits for places (R119). -/
structure Announce where
  state : AnnounceState := .none
  /-- The instant the hold-off started, while it runs. -/
  holdOff : Option Nat := none
  remembered : Bool := false
  waiting : Bool := false
  deriving DecidableEq, Repr, Inhabited

/-! ### Transmit Queue, Transmit Engine and Level Sender -/

/-- An entry's place in an announce group (R117). -/
inductive GroupPos where
  | alone | first | middle | last
  deriving DecidableEq, Repr, Inhabited

/-- What an entry sends (R117): its kind, its payload, and the fields only its kind has. -/
inductive TxBody where
  /-- An ANNOUNCE page. `known` is absent until page 0 is first attempted (R97). -/
  | page (pos : GroupPos) (index count : Nat) (known : Option (BitVec 16)) (decls : List Declaration)
  | level (pairs : List (Nat × Int)) (hold : Bool)
  | trigger (item : TriggerItem) (queuedAt deadline : Nat)
  | bye
  deriving DecidableEq, Repr, Inhabited

/-- An entry of the Transmit Queue (R117). -/
structure TxEntry where
  body : TxBody
  sequence : Option Nat := none
  attempts : Nat := 0
  begun : Bool := false
  deriving DecidableEq, Repr, Inhabited

/-- The step the current entry is in (R120, R127). -/
inductive Work where
  | defer | driving | backoff
  deriving DecidableEq, Repr, Inhabited

/-- The Transmit Engine's state (section 7.3). SUSPENDING keeps the step its group is in, which SPEAK returns to (R127). -/
inductive Engine where
  | off
  | idle
  | working (w : Work)
  | suspending (w : Work)
  | suspended
  | stopped
  deriving DecidableEq, Repr, Inhabited

/-- The Transmit Queue and Engine (R116, R120, R121). `entries` are oldest first; the count is their number. -/
structure Tx where
  entries : List TxEntry := []
  current : Nat := 0
  last : Nat := 0
  engine : Engine := .off
  sequence : Nat := 0
  deriving DecidableEq, Repr, Inhabited

/-- The Level Sender's state (section 7.7). -/
inductive SenderState where
  | silent | changing | holding
  deriving DecidableEq, Repr, Inhabited

/-- The Level Sender (section 7.7). -/
structure LevelSender where
  posted : List (Option Int) := List.replicate 16 none
  lastSent : List (Option Int) := List.replicate 16 none
  lastRequest : Option Mode := none
  state : SenderState := .silent
  unchanged : Nat := 0
  /-- Output period expiries counted since the last level interval expiry, while the timer runs. -/
  levelTimer : Option Nat := none
  /-- The instant the refresh timer started, while it runs. -/
  refresh : Option Nat := none
  /-- The hold flag of the pending LEVEL. -/
  pending : Option Bool := none
  deriving DecidableEq, Repr, Inhabited

/-! ### Line Interface -/

/-- The quiet count (R138): not running, counting since the instant it was last set to 0, or ended at 64. -/
inductive Quiet where
  | stopped
  | counting (since : Nat)
  | ended
  deriving DecidableEq, Repr, Inhabited

/-- What the node is putting on the line (chapter 8): nothing, its burst since an instant, or a jam until an instant, after
which the collision is reported as `late` or as within the window (R140, R141). -/
inductive Drive where
  | idle
  | driving (burst : Burst) (since : Nat)
  | jamming (ends : Nat) (late : Bool)
  deriving DecidableEq, Repr, Inhabited

/-- The backoff wait (R143): none, or running until an instant. -/
inductive Wait where
  | none
  | running (ends : Nat)
  deriving DecidableEq, Repr, Inhabited

/-- A run of carrier of others, the receive run of chapter 8 (R145): whether it is received as a burst, the bytes collected
after the start byte, none while no start byte has been found, and whether bytes were discarded after the 54th. The bits of a run
come with its end (log entry 20), so between commands nothing is collected. -/
structure Run where
  received : Bool
  bytes : Option (List Byte) := none
  aborted : Bool := false
  deriving DecidableEq, Repr, Inhabited

/-- The Line Interface (chapter 8). -/
structure Line where
  run : Option Run := none
  quiet : Quiet := .stopped
  drive : Drive := .idle
  backoffReg : BitVec 16 := 1
  wait : Wait := .none
  echoFails : Nat := 0
  receiveOpen : Bool := false
  deriving DecidableEq, Repr, Inhabited

/-! ### Merge Engine, Output Stage, Excursion Monitor -/

/-- The last channel values with their period count and ages (R19). -/
structure LastChannels where
  count : Count := 0
  values : List Int := List.replicate 16 0
  ages : List Nat := List.replicate 16 65535
  deriving DecidableEq, Repr, Inhabited

/-- The output frame (R55, R58). -/
structure Frame where
  number : Count := 0
  nodeState : NodeState := .config
  mode : Mode := .ease
  stage : Stage := .parked
  factor : Nat := 0
  outputs : List Int := List.replicate 8 0
  clips : List Bool := List.replicate 8 false
  warns : List Bool := List.replicate 8 false
  trip : Bool := false
  deriving DecidableEq, Repr, Inhabited

/-- What a pass in progress keeps until it ends (R51, R53, R55, R56): its stage and factor at the start, the demand, pre value
and output of each axis, and the order its hand-overs are taken in. -/
structure Pass where
  order : HandOverOrder
  stage : Stage
  factor : Nat
  demands : List Int
  pres : List Int
  outputs : List Int
  deriving DecidableEq, Repr, Inhabited

/-- A change to the tables that is held until the pass in progress ends (R11, R49); `ownEntries` is what JOIN makes in the Source Table
(R4). -/
inductive HeldChange where
  | silence (station : Nat)
  | forget (station : Nat)
  | applyBurst
  | leaveCompletion
  | ownEntries
  deriving DecidableEq, Repr, Inhabited

/-- The Merge Engine (chapter 3). `periodDue` is the instant at which the output period in progress ends (R47). -/
structure Merge where
  periodCount : Count := 0
  periodDue : Nat := 10000
  lastChannels : LastChannels := {}
  limited : List Int := List.replicate 8 0
  frame : Frame := {}
  pass : Option Pass := none
  held : List HeldChange := []
  deriving DecidableEq, Repr, Inhabited

/-- The mode vote and the Output Stage (chapter 4). -/
structure OutputStage where
  localRequest : Mode := .ease
  ownRequest : Mode := .ease
  effective : Mode := .ease
  stage : Stage := .parked
  factor : Nat := 0
  deriving DecidableEq, Repr, Inhabited

/-- The Excursion Monitor's state of one axis (chapter 5). -/
structure AxisMonitor where
  warn : Bool := false
  prevWarn : Bool := false
  clip : Bool := false
  prevClip : Bool := false
  hardCount : Nat := 0
  deriving DecidableEq, Repr, Inhabited

/-- The Excursion Monitor (chapter 5). -/
structure Monitor where
  axes : List AxisMonitor := List.replicate 8 {}
  trip : Bool := false
  deriving DecidableEq, Repr, Inhabited

/-! ### Node Controller, counters, Local Port, Event Unit -/

/-- The Node Controller (section 6.6). `window` is the instant the join window started; `leaveDue` says that the BYE has
completed or been dropped, so that LEAVE completion is due (R113; log entry 12). -/
structure Node where
  state : NodeState := .config
  quiet : Bool := false
  window : Option Nat := none
  leaveDue : Bool := false
  deriving DecidableEq, Repr, Inhabited

/-- The node counters (R147). -/
structure Counters where
  collisions : Nat := 0
  fragments : Nat := 0
  badBursts : Nat := 0
  rxOverruns : Nat := 0
  txDropped : Nat := 0
  deriving DecidableEq, Repr, Inhabited

/-- The local port's decoder (chapter 10). -/
inductive Decoder where
  | waiting | takingParameters | givingResponse | ignoring
  deriving DecidableEq, Repr, Inhabited

/-- The operation a blocking command started (R157). -/
inductive Blocking where
  | none | join | leave | storeProfile
  deriving DecidableEq, Repr, Inhabited

/-- The Local Port (chapter 10). `response` is the response fixed when the command was taken; `offered` is how many event
records it carries (R162). -/
structure Port where
  decoder : Decoder := .waiting
  response : List Byte := []
  offered : Nat := 0
  ready : Bool := true
  blocking : Blocking := .none
  deriving DecidableEq, Repr, Inhabited

/-- An event record (section 11.1). -/
structure Record where
  kind : EventKind
  count : Count
  station : Option Nat := none
  second : Option Nat := none
  /-- The channel, or the axis. -/
  channel : Option Nat := none
  detail : Option Nat := none
  value : Option Int := none
  deriving DecidableEq, Repr, Inhabited

/-- The route of each event class (R171). -/
structure Routes where
  peer : Route := .none
  mode : Route := .none
  cue : Route := .none
  line : Route := .alertA
  limit : Route := .alertA
  deriving DecidableEq, Repr, Inhabited

/-- The Event Unit (chapter 11). -/
structure EventUnit where
  queue : List Record := []
  dropped : Nat := 0
  routes : Routes := {}
  deriving DecidableEq, Repr, Inhabited

/-! ### The machine -/

/-- Why the machine stops. It has no constructor: the manual gives every command an answer, an event record or no effect, so
nothing stops the part, and the FAULT of R114 is a node state (safe: no behaviour is cut off by a fault). -/
inductive Fault where
  deriving DecidableEq, Repr

/-- Why a command has no meaning. -/
inductive Refusal where
  /-- Raised by exec for a command whose meaning is not written (safe): no arm raises it now. -/
  | notModelled (mnemonic : String)
  deriving DecidableEq, Repr, Inhabited

/-- The whole state of the block. The blocks of 00_scope.md each have their field; `pending`, `now` and `strobes` are the
model's own (log entries 2, 3 and 16). -/
structure State where
  /-- The commands that wait, first in, first out. -/
  pending : List Instr := []
  /-- The node's timebase: the latest instant that has been reached, in bit times. -/
  now : Nat := 0
  /-- RST_N is held low (R164). -/
  inReset : Bool := false
  /-- HALT_N is low (R63). -/
  haltLow : Bool := false
  /-- STROBE pulses given (R55). -/
  strobes : Nat := 0
  cfg : Settings := {}
  store : Store := {}
  line : Line := {}
  fifo : List FifoEntry := []
  peers : List PeerRecord := List.replicate 15 {}
  announce : Announce := {}
  sources : List SourceEntry := []
  players : List (Option Player) := List.replicate 8 none
  merge : Merge := {}
  output : OutputStage := {}
  monitor : Monitor := {}
  tx : Tx := {}
  sender : LevelSender := {}
  node : Node := {}
  counters : Counters := {}
  port : Port := {}
  events : EventUnit := {}
  deriving DecidableEq, Repr, Inhabited

/-- The block right after power-on reset (R164), RST_N released at instant 0 with HALT_N high and no carrier on the line
(log entry 14), and no command waiting. -/
def State.reset : State := {}

end Sys2Proof.Machine
end

