-- ==== Sys2Proof/Machine/Operands.lean ====
section
/-! DEFINITION. Operand forms: the codes of modes, stages, states, roles and events, the byte layouts of parameters and
responses, ranges and their clamping, and the rounding and saturation of the cue arithmetic. -/

namespace Sys2Proof.Machine

/-! ### Codes -/

/-- Mode codes (04, table of codes); the order of the codes is the order of R2. -/
def Mode.code : Mode → Nat
  | .live => 0
  | .ease => 1
  | .park => 2

/-- The mode a code names (R62, R148); none for 3 and above. -/
def Mode.ofCode : Nat → Option Mode
  | 0 => some .live
  | 1 => some .ease
  | 2 => some .park
  | _ => none

/-- The more restrictive of two requests (R2). -/
def Mode.worse (a b : Mode) : Mode := if a.code ≤ b.code then b else a

/-- Stage codes (04, table of codes). -/
def Stage.code : Stage → Nat
  | .live => 0
  | .easing => 1
  | .parked => 2
  | .rising => 3

/-- Node state codes (R165). -/
def NodeState.code : NodeState → Nat
  | .config => 0
  | .joining => 1
  | .active => 2
  | .leaving => 3
  | .fault => 4

/-- Link state codes (R165). -/
def Link.code : Link → Nat
  | .absent => 0
  | .present => 1
  | .holding => 2
  | .lost => 3

/-- Role codes (00_scope.md, Stations). -/
def Role.code : Role → Nat
  | .cab => 1
  | .vision => 2
  | .sound => 3
  | .instructor => 4
  | .aux => 5

/-- The role a byte names; a value outside 1..5 is no role (R100). -/
def Role.ofCode : Nat → Option Role
  | 1 => some .cab
  | 2 => some .vision
  | 3 => some .sound
  | 4 => some .instructor
  | 5 => some .aux
  | _ => none

/-- The code of a role that may be none (0) (R115, R165). -/
def roleCode (r : Option Role) : Nat := (r.map Role.code).getD 0

/-- All roles, in the order of their codes. -/
def allRoles : List Role := [.cab, .vision, .sound, .instructor, .aux]

/-- The policy a code names (R13). -/
def Policy.ofCode : Nat → Option Policy
  | 0 => some .sum
  | 1 => some .greatest
  | 2 => some .ranked
  | _ => none

/-- The end mode a code names (R25). -/
def EndMode.ofCode : Nat → Option EndMode
  | 0 => some .once
  | 1 => some .loop
  | _ => none

/-- The route a code names (R158). -/
def Route.ofCode : Nat → Option Route
  | 0 => some .none
  | 1 => some .alertA
  | 2 => some .alertB
  | _ => Option.none

/-- The event class a code names (R158). -/
def EventClass.ofCode : Nat → Option EventClass
  | 0 => some .peer
  | 1 => some .mode
  | 2 => some .cue
  | 3 => some .line
  | 4 => some .limit
  | _ => none

/-- Event kind codes (R167). -/
def EventKind.code : EventKind → Nat
  | .peerJoined => 0x01
  | .peerLost => 0x02
  | .peerReturned => 0x03
  | .peerLeft => 0x04
  | .peerForgotten => 0x05
  | .rankConflict => 0x06
  | .modeChanged => 0x11
  | .stageChanged => 0x12
  | .nodeState => 0x13
  | .triggerDropped => 0x21
  | .txDropped => 0x31
  | .badBurst => 0x32
  | .rxOverrun => 0x33
  | .duplicateStation => 0x34
  | .lineFault => 0x35
  | .warn => 0x41
  | .clip => 0x42
  | .hardTrip => 0x43

/-- The class of an event kind (R167). -/
def EventKind.eventClass : EventKind → EventClass
  | .peerJoined | .peerLost | .peerReturned | .peerLeft | .peerForgotten | .rankConflict => .peer
  | .modeChanged | .stageChanged | .nodeState => .mode
  | .triggerDropped => .cue
  | .txDropped | .badBurst | .rxOverrun | .duplicateStation | .lineFault => .line
  | .warn | .clip | .hardTrip => .limit

/-- TRIGGER_DROPPED reason codes (R167). -/
def DropReason.code : DropReason → Nat
  | .unannounced => 1
  | .parked => 2
  | .noProfile => 3
  | .duplicate => 4
  | .noPlayer => 5
  | .stolen => 6
  | .stale => 7

/-- BAD_BURST reason codes (R167). -/
def BadReason.code : BadReason → Nat
  | .length => 1
  | .crc => 2
  | .kind => 3
  | .format => 4

/-- TX_DROPPED reason codes (R167). -/
def TxReason.code : TxReason → Nat
  | .late => 1
  | .excessive => 2

/-- Result codes (R156). -/
def Result.code : Result → Nat
  | .ok => 0
  | .busy => 1
  | .state => 2
  | .param => 3
  | .full => 4
  | .empty => 5

/-- Engine codes reported by STATUS (section 7.3). -/
def Engine.code : Engine → Nat
  | .off => 0
  | .idle => 1
  | .working .defer => 2
  | .working .driving => 3
  | .working .backoff => 4
  | .suspending _ => 5
  | .suspended => 6
  | .stopped => 7

/-! ### Bytes -/

/-- A byte of a response or burst. -/
def byte (n : Nat) : Byte := BitVec.ofNat 8 n

/-- A byte that stands for a field that may be absent: 0xFF when absent (R165, R166). -/
def byteOrAbsent (n : Option Nat) : Byte := byte (n.getD 0xFF)

/-- A yes or no byte of a response: 1 for yes or set, 0 for no or clear. R166 gives these codes for the presence byte of a record;
for SELF, the quiet flag and the trip latch R165 gives no code (DESIGN CHOICE; log entry 38). -/
def boolByte (b : Bool) : Byte := if b then 1 else 0

/-- Two bytes, most significant first (R155). -/
def bytes16 (n : Nat) : List Byte := [byte (n / 256), byte n]

/-- Four bytes, most significant first (R155). -/
def bytes32 (n : Nat) : List Byte := [byte (n / 16777216), byte (n / 65536), byte (n / 256), byte n]

/-- A signed two-byte value, two's complement, most significant byte first (R155). -/
def signedBytes (x : Int) : List Byte := bytes16 (BitVec.ofInt 16 x).toNat

/-- A two-byte value from its bytes, most significant first (R155). -/
def word16 (hi lo : Byte) : Word16 := hi ++ lo

/-- Flags as one byte, bit a for axis a (R165), 1 for a flag that is set (DESIGN CHOICE; log entry 38). -/
def flagsByte (flags : List Bool) : Byte :=
  byte (flags.reverse.foldl (fun acc b => 2 * acc + if b then 1 else 0) 0)

/-! ### Ranges -/

/-- A value brought into lo..hi. -/
def clamp (lo hi x : Nat) : Nat := max lo (min hi x)

/-- An exact value clamped to lo..hi. -/
def clampInt (lo hi x : Int) : Int := max lo (min hi x)

/-- A saturating counter of greatest value `top` increased by `k`. -/
def satAdd (top n k : Nat) : Nat := min top (n + k)

/-! ### Cue arithmetic -/

/-- A cue value as it arrives: −32768 is taken as −32767 (00_scope.md, Cue values). -/
def takeCue (x : Int) : Int := if x = -32768 then -32767 else x

/-- A signed two-byte cue value as it arrives. -/
def cueOf (w : Word16) : Int := takeCue w.toInt

/-- Saturation to −32767..+32767 (00_scope.md, Cue values). -/
def saturate (x : Int) : Int := clampInt (-Config.cueMax) Config.cueMax x

/-- Division to nearest, ties away from zero, the sign taken apart from the magnitude (R1). -/
def roundDiv (x : Int) (d : Nat) : Int :=
  let m : Int := ((x.natAbs + d / 2) / d : Nat)
  if x < 0 then -m else m

end Sys2Proof.Machine
end

