-- ==== Sys2Proof/WellFormed.lean ====
section
/-! DEFINITION. Which commands are well formed: the framing of a transaction fixes how many parameters it has (R155, R165),
and an event names something that exists. Every byte a transaction carries is well formed; a value that names nothing is
answered PARAM by the meaning (R156), not refused here. -/

namespace Sys2Proof

/-- The command bytes of R165. -/
def commandCodes : List Nat :=
  [0x01, 0x02, 0x03, 0x04, 0x05, 0x06, 0x07, 0x08, 0x10, 0x11, 0x12, 0x13, 0x14,
   0x20, 0x21, 0x22, 0x23, 0x30, 0x31, 0x32, 0x33, 0x34]

/-- How many samples STORE PROFILE takes (R165): none if the length is 0 or above 256. -/
def sampleCount (length : Word16) : Nat :=
  if 1 ≤ length.toNat ∧ length.toNat ≤ 256 then length.toNat else 0

/-- How many pairs POST takes (R160): none if the count is 0 or above 16. -/
def pairCount (count : Byte) : Nat :=
  if 1 ≤ count.toNat ∧ count.toNat ≤ 16 then count.toNat else 0

def Instr.wellFormed : Instr → Bool
  | .unknownCommand code => !commandCodes.contains code.toNat
  | .storeProfile _ _ _ length samples => samples.length == sampleCount length
  | .post count pairs => pairs.length == pairCount count
  | .silenceTimerExpiry st | .forgetTimerExpiry st | .assemblyTimeLimit st => 1 ≤ st && st ≤ 15
  | .staleDeadline index => index < 8
  | .collision bit => bit < 472
  | _ => true

end Sys2Proof
end

