-- ==== Sys2Proof/Decode.lean ====
section
/-! DEFINITION. The decoder. spec/opcode_table.json gives no row any bits, so no word spells a command by the table; the bytes
of a local port transaction spell one by R165, and both directions of that layout stand here. -/

namespace Sys2Proof

/-- The command a word spells by the table's bits: none, for the table gives no row any bits (log entry 23). -/
def decodeTableWord (_nbits _w : Nat) : Option Instr := none

/-! ### Transactions of the local port (R155, R165) -/

open Machine (word16)

/-- `n` two-byte values. -/
def takeWords : Nat → List Byte → Option (List Word16)
  | 0, _ => some []
  | n + 1, hi :: lo :: rest => (takeWords n rest).map (word16 hi lo :: ·)
  | _ + 1, _ => none

/-- `n` (channel, value) pairs. -/
def takePairs : Nat → List Byte → Option (List (Byte × Word16))
  | 0, _ => some []
  | n + 1, c :: hi :: lo :: rest => (takePairs n rest).map ((c, word16 hi lo) :: ·)
  | _ + 1, _ => none

/-- The parameters of DEFINE AXIS: 25 bytes (R165). -/
def parseDefineAxis : List Byte → Option Instr
  | a :: k :: c0 :: g0h :: g0l :: c1 :: g1h :: g1l :: c2 :: g2h :: g2l :: c3 :: g3h :: g3l ::
      sh :: sl :: ch :: cl :: wh :: wl :: hh :: hl :: lh :: ll :: n :: _ =>
    some (.defineAxis a k ⟨c0, word16 g0h g0l⟩ ⟨c1, word16 g1h g1l⟩ ⟨c2, word16 g2h g2l⟩ ⟨c3, word16 g3h g3l⟩
      (word16 sh sl) (word16 ch cl) (word16 wh wl) (word16 hh hl) (word16 lh ll) n)
  | _ => none

/-- The parameters of SET TIMING: 11 bytes (R165). -/
def parseSetTiming : List Byte → Option Instr
  | p :: l :: h :: r :: sh :: sl :: fh :: fl :: st :: w :: ps :: _ =>
    some (.setTiming p l h r (word16 sh sl) (word16 fh fl) st w ps)
  | _ => none

/-- The parameters of STORE PROFILE: 5 bytes and the samples its length counts (R165). -/
def parseStoreProfile : List Byte → Option Instr
  | p :: s :: e :: lh :: ll :: rest =>
    (takeWords (sampleCount (word16 lh ll)) rest).map (.storeProfile p s e (word16 lh ll))
  | _ => none

/-- The parameters of a command by its command byte (R165). -/
def parseParameters (t code : Nat) (params : List Byte) : Option Instr :=
  match code, params with
  | 0x01, st :: r :: sh :: sl :: _ => some (.setStation st r (word16 sh sl))
  | 0x01, _ => none
  | 0x02, ps => parseSetTiming ps
  | 0x03, c :: p :: pr :: r :: dh :: dl :: fh :: fl :: _ =>
    some (.defineChannel c p pr r (word16 dh dl) (word16 fh fl))
  | 0x03, _ => none
  | 0x04, ps => parseDefineAxis ps
  | 0x05, ps => parseStoreProfile ps
  | 0x06, _ => some .clearProfiles
  | 0x07, eh :: el :: ph :: pl :: rh :: rl :: roles :: _ =>
    some (.setStage (word16 eh el) (word16 ph pl) (word16 rh rl) roles)
  | 0x07, _ => none
  | 0x08, c :: r :: _ => some (.routeAlerts c r)
  | 0x08, _ => none
  | 0x10, _ => some (.join t)
  | 0x11, _ => some (.leave t)
  | 0x12, _ => some (.restart t)
  | 0x13, _ => some .quiet
  | 0x14, _ => some (.speak t)
  | 0x20, n :: rest => (takePairs (pairCount n) rest).map (.post n)
  | 0x20, _ => none
  | 0x21, c :: e :: p :: a :: pr :: l :: _ => some (.fire t c e p a pr l)
  | 0x21, _ => none
  | 0x22, e :: _ => some (.cancel t e)
  | 0x22, _ => none
  | 0x23, m :: _ => some (.askMode t m)
  | 0x23, _ => none
  | 0x30, _ => some .status
  | 0x31, _ => some .takeOutput
  | 0x32, _ => some .takeChannels
  | 0x33, st :: _ => some (.peer st)
  | 0x33, _ => none
  | 0x34, _ => some .takeEvents
  | code, _ => some (.unknownCommand (Machine.byte code))

/-- The command the bytes of a transaction spell, taken at the instant `t`; none while its last parameter byte is not in, and
then the transaction is not taken (R155). Bytes after the last parameter are ignored. -/
def decodeTransaction (t : Nat) : List Byte → Option Instr
  | [] => none
  | code :: params => parseParameters t code.toNat params

/-- The command as it is taken at the instant `t`: the instant stands where the command carries one. -/
def Instr.takenAt (t : Nat) : Instr → Instr
  | .join _ => .join t
  | .leave _ => .leave t
  | .restart _ => .restart t
  | .speak _ => .speak t
  | .fire _ c e p a pr l => .fire t c e p a pr l
  | .cancel _ e => .cancel t e
  | .askMode _ m => .askMode t m
  | i => i

/-- A two-byte parameter's bytes, most significant first (R155). -/
def wordBytes (w : Word16) : List Byte := [w.extractLsb' 8 8, w.extractLsb' 0 8]

/-- The bytes of the transaction of a local port command; none for a command that is no transaction's (R165). -/
def encodeTransaction : Instr → Option (List Byte)
  | .unknownCommand code => some [code]
  | .setStation st r seed => some (0x01 :: st :: r :: wordBytes seed)
  | .setTiming p l h r si fo st w ps =>
    some ([0x02, p, l, h, r] ++ wordBytes si ++ wordBytes fo ++ [st, w, ps])
  | .defineChannel c p pr r d f => some ([0x03, c, p, pr, r] ++ wordBytes d ++ wordBytes f)
  | .defineAxis a k t0 t1 t2 t3 s c w h l n =>
    some ([0x04, a, k] ++ (t0.channel :: wordBytes t0.gain) ++ (t1.channel :: wordBytes t1.gain) ++
      (t2.channel :: wordBytes t2.gain) ++ (t3.channel :: wordBytes t3.gain) ++
      wordBytes s ++ wordBytes c ++ wordBytes w ++ wordBytes h ++ wordBytes l ++ [n])
  | .storeProfile p s e len samples => some ([0x05, p, s, e] ++ wordBytes len ++ samples.flatMap wordBytes)
  | .clearProfiles => some [0x06]
  | .setStage e p r roles => some (0x07 :: wordBytes e ++ wordBytes p ++ wordBytes r ++ [roles])
  | .routeAlerts c r => some [0x08, c, r]
  | .join _ => some [0x10]
  | .leave _ => some [0x11]
  | .restart _ => some [0x12]
  | .quiet => some [0x13]
  | .speak _ => some [0x14]
  | .post n pairs => some ([0x20, n] ++ pairs.flatMap fun p => p.1 :: wordBytes p.2)
  | .fire _ c e p a pr l => some [0x21, c, e, p, a, pr, l]
  | .cancel _ e => some [0x22, e]
  | .askMode _ m => some [0x23, m]
  | .status => some [0x30]
  | .takeOutput => some [0x31]
  | .takeChannels => some [0x32]
  | .peer st => some [0x33, st]
  | .takeEvents => some [0x34]
  | .powerOnReset _ | .haltNChange .. | .transactionEnd _ | .profileWriteComplete | .outputPeriodExpiry ..
  | .silenceTimerExpiry _ | .forgetTimerExpiry _ | .assemblyTimeLimit _ | .announceHoldOffExpiry | .joinWindowExpiry
  | .levelIntervalExpiry | .refreshTimerExpiry | .staleDeadline _ | .carrierStart _ | .gapEnd | .echoCheck _
  | .collision _ | .jamEnd | .backoffWaitEnd | .attemptCompletes | .leaveCompletion | .runEnd .. | .applyBurst
  | .rstNFall => none

end Sys2Proof
end

