-- ==== Sys2Proof/Machine/Flags.lean ====
section
/-! DEFINITION. The flags the manual computes: the warn and clip flags of an axis, its hard count, the required-roles check,
and the alert lines. -/

namespace Sys2Proof.Machine

/-- The clip flag of a pre value (R54, R84). -/
def clipFlag (clip : Nat) (pre : Int) : Bool := decide (clip < pre.natAbs)

/-- The warn flag after an output, from the flag before it (R82). -/
def warnFlag (warn hysteresis : Nat) (before : Bool) (output : Int) : Bool :=
  if warn = 0 then false
  else if before then
    if hysteresis < warn then decide (warn - hysteresis ≤ output.natAbs)
    else decide (output ≠ 0)
  else decide (warn ≤ output.natAbs)

/-- The hard count after a pass, from the stage the pass began with (R85). -/
def hardCountAfter (stage : Stage) (limit setting count : Nat) (demand : Int) : Nat :=
  if stage = .parked then 0
  else if demand.natAbs ≤ limit then 0
  else if count < setting then count + 1
  else setting

/-- Whether a hard count has just become equal to its setting (R86). -/
def hardTripped (setting before after : Nat) : Bool := decide (after = setting ∧ before < setting)

/-- The route of an event class (R171). -/
def Routes.of (r : Routes) : EventClass → Route
  | .peer => r.peer
  | .mode => r.mode
  | .cue => r.cue
  | .line => r.line
  | .limit => r.limit

/-- Whether a record of a class routed to this line is held (R170). -/
def EventUnit.asserts (e : EventUnit) (line : Route) : Bool :=
  e.queue.any fun r => e.routes.of r.kind.eventClass = line

/-- ALERT_A asserted (driven low): a record of a class routed to it is held, and RST_N is not held low (R170, R164). -/
def State.alertA (s : State) : Bool := !s.inReset && s.events.asserts .alertA

/-- ALERT_B asserted (driven low) (R170, R164). -/
def State.alertB (s : State) : Bool := !s.inReset && s.events.asserts .alertB

end Sys2Proof.Machine
end

