-- ==== Sys2Proof/Machine/Ops.lean ====
section
/-! DEFINITION. The named operations every family uses: time, records, tables by number, counters, results of commands. -/

namespace Sys2Proof.Machine

/-- What a step answers. -/
abbrev Answer := Host.Outcome State Fault Refusal

/-! ### Time -/

/-- An instant is reached. Time does not run back: an event given an instant that lies before one already reached is taken at
the latter (log entries 3 and 4). -/
def State.advance (s : State) (t : Nat) : State := { s with now := max s.now t }

/-- Milliseconds as bit times. -/
def ms (n : Nat) : Nat := n * Config.bitsPerMs

/-! ### Holding RST_N low -/

/-- An effect that does not take place while RST_N is held low (R164; log entry 15). -/
def State.unlessReset (s after : State) : State := if s.inReset then s else after

/-! ### Changes held while a pass is in progress (R11, R49) -/

/-- A change to the tables is made now, or held until the pass in progress ends. -/
def State.orHold (s : State) (h : HeldChange) (now : State) : State :=
  if s.merge.pass.isSome then { s with merge := { s.merge with held := s.merge.held ++ [h] } } else now

/-! ### Events -/

/-- A record offered to the event queue: it joins behind the newest, or is discarded and counted when 32 are held (R168). -/
def EventUnit.offer (e : EventUnit) (r : Record) : EventUnit :=
  if e.queue.length < Config.eventPlaces then { e with queue := e.queue ++ [r] }
  else { e with dropped := satAdd 255 e.dropped 1 }

/-- Raise a record stamped with the period count held at this moment (R166). -/
def State.report (s : State) (kind : EventKind) (station second channel detail : Option Nat := none)
    (value : Option Int := none) : State :=
  let r : Record := { kind, count := s.merge.periodCount, station, second, channel, detail, value }
  { s with events := s.events.offer r }

/-- One BAD_BURST record, which also counts in the bad bursts counter (R145, R147). -/
def State.reportBad (s : State) (reason : BadReason) (station : Option Nat) (value : Option Int) : State :=
  let counted : State :=
    { s with counters := { s.counters with badBursts := satAdd Config.counterMax s.counters.badBursts 1 } }
  counted.report .badBurst (station := station) (detail := some reason.code) (value := value)

/-- TRIGGER_DROPPED (R44). -/
def State.reportDropped (s : State) (reason : DropReason) (station : Nat) (channel : Option Nat) (event : Nat) : State :=
  s.report .triggerDropped (station := some station) (channel := channel) (detail := some reason.code)
    (value := some event)

/-! ### Tables by number -/

/-- The configuration record of a channel (R13). -/
def State.channel (s : State) (c : Nat) : Channel := s.cfg.channels.getD c {}

/-- The channels configured as produced, in ascending order (R13). -/
def State.produced (s : State) : List Nat := (List.range 16).filter fun c => (s.channel c).produce

/-- This node's declarations: the produced channels with their configured ranks, ascending (R92, R97). -/
def State.ownDeclarations (s : State) : List Declaration := s.produced.map fun c => (c, (s.channel c).rank)

/-- This node is a listener: its station number is 0 (00_scope.md, Stations). -/
def State.listener (s : State) : Bool := s.cfg.station == 0

/-- The record of a station 1..15 (R92). -/
def State.peerAt (s : State) : Nat → PeerRecord
  | 0 => {}
  | n + 1 => s.peers.getD n {}

/-- Change the record of a station 1..15. -/
def State.mapPeer (s : State) (station : Nat) (f : PeerRecord → PeerRecord) : State :=
  match station with
  | 0 => s
  | n + 1 => { s with peers := s.peers.modify n f }

/-- The stations 1..15. -/
def stations : List Nat := (List.range 15).map (· + 1)

/-- PRESENT or HOLDING. -/
def Link.heard : Link → Bool
  | .present | .holding => true
  | .absent | .lost => false

/-! ### Counters -/

/-- The tx dropped counter takes one more (R124, R125). -/
def State.countTxDropped (s : State) : State :=
  { s with counters := { s.counters with txDropped := satAdd Config.counterMax s.counters.txDropped 1 } }

/-! ### Results of commands (R155, R156) -/

/-- Fix the response of the command just taken: the result byte, then the data (R155). -/
def State.answer (s : State) (r : Result) (data : List Byte := []) : State :=
  { s with port := { s.port with decoder := .givingResponse, response := byte r.code :: data, offered := 0 } }

/-- SEL_N is low: a transaction has begun and has not ended. Its fall has no row of the table and comes with the command's (log
entry 7), so its level stands in the decoder, which waits for a command byte exactly while SEL_N is high (R155, R164). -/
def State.selLow (s : State) : Bool := decide (s.port.decoder ≠ .waiting)

/-- A command is taken when the decoder waits for a command byte. Bytes clocked in during a response and after it are
ignored, and a transaction that begins while RST_N is held low is ignored to its end (R155, R164; log entry 7). -/
def State.onPort (s : State) (taken : State) : State :=
  if s.inReset then { s with port := { s.port with decoder := .ignoring } }
  else match s.port.decoder with
    | .waiting => taken
    | _ => s

/-- A command that is refused with BUSY while READY is low, as every one but STATUS is (R156, R157). -/
def State.command (s : State) (taken : State) : State :=
  s.onPort (if s.port.ready then taken else s.answer .busy)

/-- A configuration command: taken in CONFIG and answered STATE in every other node state (R158). -/
def State.configCommand (s : State) (taken : State) : State :=
  s.command (if s.node.state = .config then taken else s.answer .state)

/-- A blocking operation has ended: READY rises (R157). -/
def State.endBlocking (s : State) : State :=
  { s with port := { s.port with blocking := .none, ready := true } }

/-! ### Carrier -/

/-- A run that is not received: what was collected of it is discarded, and so is the rest (R145). -/
def Run.discarded (_ : Run) : Run := { received := false }

/-- Something is on the line: a run of others, or what this node drives. -/
def State.carrier (s : State) : Bool :=
  s.line.run.isSome || decide (s.line.drive ≠ .idle)

end Sys2Proof.Machine
end

