-- ==== Sys2Proof/Machine/Sources.lean ====
section
/-! DEFINITION. The Source Table (chapter 1): the life of its entries, the fade, the policies, and the ages. The order of the
entries in the list is the order in which they came into being; no result depends on it. -/

namespace Sys2Proof.Machine

/-! ### The life of an entry -/

/-- The entry of this station and channel. -/
def SourceEntry.keyed (e : SourceEntry) (station channel : Nat) : Bool :=
  e.station == station && e.channel == channel

/-- An entry as it comes into being: EMPTY, declared, no last update (R4, R5). -/
def SourceEntry.fresh (station : Nat) (d : Declaration) : SourceEntry :=
  { station, channel := d.1, held := .empty, rank := d.2, declared := true, lastUpdate := none }

/-- A VALID entry becomes FADING with its value; the rest stays (R10). -/
def SourceEntry.fade (e : SourceEntry) : SourceEntry :=
  match e.held with
  | .valid v => { e with held := .fading v }
  | _ => e

/-- An entry whose declaration is discarded: an EMPTY one is removed, the others fade undeclared (R6, R7). -/
def SourceEntry.undeclare (e : SourceEntry) : Option SourceEntry :=
  match e.held with
  | .empty => none
  | _ => some { e.fade with declared := false }

/-- The declared rank of a channel, if the set declares it. -/
def rankIn (decls : List Declaration) (channel : Nat) : Option Nat :=
  (decls.find? (·.1 == channel)).map (·.2)

/-- A station's declared set replaces the one before it, or is discarded when `decls` is empty (R5, R6, R7). Entries of
channels in the new set keep state, value and last update and take the new rank; the others are undeclared; channels with no
entry get an EMPTY one. -/
def redeclare (station : Nat) (decls : List Declaration) (table : List SourceEntry) : List SourceEntry :=
  let kept := table.filterMap fun e =>
    if e.station = station then
      match rankIn decls e.channel with
      | some rank => some { e with rank, declared := true }
      | none => e.undeclare
    else some e
  let created := decls.filter fun d => !table.any (·.keyed station d.1)
  kept ++ created.map (SourceEntry.fresh station)

/-- The VALID entries of a lost station become FADING; its declared set is kept (R10). -/
def fadeStation (station : Nat) (table : List SourceEntry) : List SourceEntry :=
  table.map fun e => if e.station = station then e.fade else e

/-- An entry becomes VALID with a value heard on the line, stamped with the period count (R8, R9). -/
def setValid (station channel : Nat) (v : Int) (count : Count) (table : List SourceEntry) : List SourceEntry :=
  table.map fun e =>
    if e.keyed station channel then { e with held := .valid (takeCue v), lastUpdate := some count } else e

/-! ### The fade stage (R12) -/

/-- One fade step of an entry: toward zero, and at the end EMPTY if declared, removed if not (R12). -/
def SourceEntry.fadeStage (step : Nat) (e : SourceEntry) : Option SourceEntry :=
  match e.held with
  | .fading v =>
    if step < v.natAbs then some { e with held := .fading (if v < 0 then v + step else v - step) }
    else if e.declared then some { e with held := .empty }
    else none
  | _ => some e

/-- Stage 1 of a merge pass: every FADING entry is stepped by the fade step of its channel (R12). -/
def fadeTable (channels : List Channel) (table : List SourceEntry) : List SourceEntry :=
  table.filterMap fun e => e.fadeStage (channels.getD e.channel {}).fadeStep

/-! ### Policies (R14 to R17) -/

/-- An entry that takes part in the merge, with its value (R14). -/
structure Voice where
  station : Nat
  rank : Nat
  isValid : Bool
  value : Int
  deriving DecidableEq, Repr, Inhabited

/-- The entry's voice: VALID and FADING entries take part, EMPTY ones do not (R14). -/
def SourceEntry.voice (e : SourceEntry) : Option Voice :=
  match e.held with
  | .empty => none
  | .valid v => some ⟨e.station, e.rank, true, v⟩
  | .fading v => some ⟨e.station, e.rank, false, v⟩

/-- The collected entries of a channel (R14). -/
def voices (table : List SourceEntry) (c : Nat) : List Voice :=
  (table.filter (·.channel == c)).filterMap SourceEntry.voice

/-- The first of the list that no other beats. -/
def bestBy (beats : Voice → Voice → Bool) : List Voice → Option Voice
  | [] => none
  | v :: rest =>
    match bestBy beats rest with
    | none => some v
    | some w => if beats w v then some w else some v

/-- Greater magnitude, ties to the lower station (R16). -/
def Voice.greater (a b : Voice) : Bool :=
  b.value.natAbs < a.value.natAbs || (a.value.natAbs == b.value.natAbs && a.station < b.station)

/-- Higher rank, ties to the lower station (R17). -/
def Voice.outranks (a b : Voice) : Bool :=
  b.rank < a.rank || (a.rank == b.rank && a.station < b.station)

/-- The value a policy gives the collected entries; 0 if there are none (R14 to R17). -/
def Policy.apply (p : Policy) (vs : List Voice) : Int :=
  match p with
  | .sum => saturate (vs.map (·.value)).sum
  | .greatest => ((bestBy Voice.greater vs).map (·.value)).getD 0
  | .ranked =>
    let valid := vs.filter (·.isValid)
    let pool := if valid.isEmpty then vs else valid
    ((bestBy Voice.outranks pool).map (·.value)).getD 0

/-- Stage 2 of a merge pass: the sustained value of a channel (R14). -/
def sustained (channels : List Channel) (table : List SourceEntry) (c : Nat) : Int :=
  (channels.getD c {}).policy.apply (voices table c)

/-! ### Ages (R20) -/

/-- The age of a VALID entry at a pass: the counts subtracted modulo 2^32 (R20). -/
def SourceEntry.age (count : Count) (e : SourceEntry) : Option Nat :=
  match e.held, e.lastUpdate with
  | .valid _, some u => some (count - u).toNat
  | _, _ => none

/-- The age of a channel: the smallest age of its VALID entries, at most 65535, and 65535 if there are none (R20). -/
def channelAge (table : List SourceEntry) (count : Count) (c : Nat) : Nat :=
  ((table.filter (·.channel == c)).filterMap (SourceEntry.age count)).foldl min Config.ageMax

end Sys2Proof.Machine
end

