-- ==== Sys2Proof/Machine/Players.lean ====
section
/-! DEFINITION. The Player Bank (chapter 2): allocation and steals, the items of a TRIGGER burst, the player stage of a
merge pass, and what departures do to LOOP players. -/

namespace Sys2Proof.Machine

/-- The record of a profile, if it is defined (R27). -/
def Store.profile (st : Store) (n : Nat) : Option Profile := st.profiles.getD n none

/-- The non-FREE player of this source and event id, if any, is this one (R30, R33). -/
def Player.matches (source event : Nat) (p : Player) : Bool := p.source == source && p.event == event

/-! ### Allocation (R31) -/

/-- The lowest-numbered FREE player from number `n` on. -/
def firstFree (n : Nat) : List (Option Player) → Option Nat
  | [] => none
  | none :: _ => some n
  | some _ :: rest => firstFree (n + 1) rest

/-- The victim's criteria: lower priority, then earlier start instant; equal ones leave the lower player number (R31). -/
def Player.weaker (a b : Player) : Bool :=
  a.priority < b.priority || (a.priority == b.priority && a.start < b.start)

/-- The victim of a steal by an item of this priority, from number `n` on: its number and its player (R31). -/
def victim (priority n : Nat) : List (Option Player) → Option (Nat × Player)
  | [] => none
  | none :: rest => victim priority (n + 1) rest
  | some p :: rest =>
    match victim priority (n + 1) rest with
    | none => if p.priority < priority then some (n, p) else none
    | some (m, q) => if p.priority < priority ∧ !q.weaker p then some (n, p) else some (m, q)

/-! ### Items of a TRIGGER burst (R29 to R33) -/

/-- The player an accepted item arms (R32). -/
def armed (source endInstant channel event profile amplitude priority lead : Nat) : Player :=
  { state := .armed, source, event, channel, profile, amplitude, priority,
    start := endInstant + lead * Config.bitsPerLead,
    index := 0, stretchCount := 0, fadeLevel := Config.fullLevel }

/-- Put a player in its place, or free the place. -/
def State.setPlayer (s : State) (n : Nat) (p : Option Player) : State := { s with players := s.players.set n p }

/-- A START item of a sender that is heard: the checks of R30 from the second on, allocation, and arming. -/
def applyStart (source endInstant channel event profile amplitude priority lead : Nat) (s : State) : State :=
  let drop (reason : DropReason) := s.reportDropped reason source (some channel) event
  let p := armed source endInstant channel event profile amplitude priority lead
  if s.output.stage = .parked then drop .parked
  else if s.store.profile profile = none then drop .noProfile
  else if s.players.any (fun q => q.any (·.matches source event)) then drop .duplicate
  else match firstFree 0 s.players with
    | some n => s.setPlayer n (some p)
    | none =>
      match victim priority 0 s.players with
      | some (n, v) => (s.reportDropped .stolen v.source (some v.channel) v.event).setPlayer n (some p)
      | none => drop .noPlayer

/-- What a CANCEL item does to the player it matches: an ARMED one is freed, a PLAYING one begins to fade (R33). -/
def Player.cancelled (p : Player) : Option Player :=
  match p.state with
  | .armed => none
  | .playing => some { p with state := .fading, fadeLevel := Config.fullLevel }
  | .fading => some p

/-- A CANCEL item (R33). -/
def applyCancel (source event : Nat) (s : State) : State :=
  { s with players := s.players.map fun q =>
      match q with
      | some p => if p.matches source event then p.cancelled else some p
      | none => none }

/-- One item of a TRIGGER burst whose sender is heard (R29). -/
def applyItem (source endInstant : Nat) (s : State) : TriggerItem → State
  | .start channel event profile amplitude priority lead =>
    applyStart source endInstant channel event profile amplitude priority lead s
  | .cancel event => applyCancel source event s

/-- The items in the order they stand, each finished before the next (R29). -/
def applyItems (source endInstant : Nat) (items : List TriggerItem) (s : State) : State :=
  items.foldl (applyItem source endInstant) s

/-- The items of an ABSENT sender: a record for each START item, CANCEL items ignored (R29). -/
def dropItems (source : Nat) (items : List TriggerItem) (s : State) : State :=
  items.foldl (fun s i =>
    match i with
    | .start channel event .. => s.reportDropped .unannounced source (some channel) event
    | .cancel _ => s) s

/-! ### Departures (R40, R41) -/

/-- A PLAYING player of a LOOP profile begins to fade when its source departs (R40, R41). -/
def Player.orphaned (st : Store) (source : Nat) (p : Player) : Player :=
  if p.source = source ∧ p.state = .playing ∧ (st.profile p.profile).map (·.endMode) = some .loop then
    { p with state := .fading, fadeLevel := Config.fullLevel }
  else p

/-- What the departure of a source does to the Player Bank (R40, R41). -/
def State.orphanPlayers (s : State) (source : Nat) : State :=
  { s with players := s.players.map (Option.map (Player.orphaned s.store source)) }

/-! ### The player stage (R34 to R37) -/

/-- A due ARMED player becomes PLAYING (R34). -/
def Player.started (expiry : Nat) (p : Player) : Player :=
  if p.state = .armed ∧ p.start ≤ expiry then { p with state := .playing } else p

/-- The level a player contributes at (R35). -/
def Player.level (p : Player) : Nat :=
  match p.state with
  | .fading => p.fadeLevel
  | _ => Config.fullLevel

/-- The contribution of a player that is PLAYING or FADING (R35). -/
def Player.contribution (st : Store) (p : Player) : Int :=
  match p.state, st.profile p.profile with
  | .armed, _ => 0
  | _, none => 0
  | _, some pr => roundDiv (st.samples.getD (pr.start + p.index) 0 * p.amplitude * p.level) 1024

/-- The step through the profile (R36): none when a ONCE profile has ended. -/
def Player.stepped (pr : Profile) (p : Player) : Option Player :=
  let count := p.stretchCount + 1
  let q := if count = pr.stretch then { p with index := p.index + 1, stretchCount := 0 }
           else { p with stretchCount := count }
  if q.index = pr.length then
    match pr.endMode with
    | .once => none
    | .loop => some { q with index := 0 }
  else some q

/-- A FADING player's level falls by one after its step, and at 0 the player is FREE (R37). -/
def Player.faded (p : Player) : Option Player :=
  match p.state with
  | .fading => if p.fadeLevel ≤ 1 then none else some { p with fadeLevel := p.fadeLevel - 1 }
  | _ => some p

/-- A player after it has contributed (R36, R37). An ARMED player does not step. A player whose profile is not defined does
not arise (R27) and keeps its place (log entry 21). -/
def Player.after (st : Store) (p : Player) : Option Player :=
  match p.state, st.profile p.profile with
  | .armed, _ => some p
  | _, none => some p
  | _, some pr => (p.stepped pr).bind Player.faded

/-- The Player Bank after its start checks at an expiry (R34). -/
def startPlayers (expiry : Nat) (players : List (Option Player)) : List (Option Player) :=
  players.map (Option.map (Player.started expiry))

/-- The exact sum of the contributions of the players on a channel (R18, R35). -/
def contributions (st : Store) (players : List (Option Player)) (c : Nat) : Int :=
  (players.map fun q =>
    match q with
    | some p => if p.channel = c then p.contribution st else 0
    | none => 0).sum

/-- The Player Bank after the stepping of its players (R36, R37). -/
def stepPlayers (st : Store) (players : List (Option Player)) : List (Option Player) :=
  players.map fun q => q.bind (Player.after st)

/-- Every player is FREE (R28, R39, R42). -/
def freePlayers : List (Option Player) := List.replicate 8 none

end Sys2Proof.Machine
end

