-- ==== Sys2Proof/Machine/Bursts.lean ====
section
/-! DEFINITION. Burst formats (chapter 9): the bytes of a burst as a node forms them, the CRC, and how a received run is
judged (R145, R148 to R154). -/

namespace Sys2Proof.Machine

/-- Burst kind codes (section 9.1). -/
def Payload.kind : Payload → Nat
  | .page0 .. => 1
  | .page .. => 1
  | .level _ => 2
  | .trigger _ => 3
  | .bye => 4

/-! ### Forming a burst -/

/-- A declaration's two bytes (section 9.2). -/
def declarationBytes (decls : List Declaration) : List Byte := decls.flatMap fun d => [byte d.1, byte d.2]

/-- The page byte: index in bits 7 to 4, count in bits 3 to 0 (R149). -/
def pageByte (index count : Nat) : Byte := byte (16 * index + count)

/-- The five bytes of a TRIGGER item (R151). -/
def TriggerItem.bytes : TriggerItem → List Byte
  | .start channel event profile amplitude priority lead =>
    [byte (16 * priority + channel), byte event, byte profile, byte amplitude, byte lead]
  | .cancel event => [0x80, byte event, 0, 0, 0]

/-- The payload's bytes (R149 to R152). -/
def Payload.bytes : Payload → List Byte
  | .page0 count role known decls =>
    pageByte 0 count :: byte role :: bytes16 known.toNat ++ byte decls.length :: declarationBytes decls
  | .page index count decls => pageByte index count :: byte decls.length :: declarationBytes decls
  | .level pairs => pairs.flatMap fun p => byte p.1 :: signedBytes p.2
  | .trigger items => items.flatMap TriggerItem.bytes
  | .bye => []

/-- The four header bytes (R148). -/
def Burst.header (b : Burst) : List Byte :=
  [byte (16 * b.payload.kind + b.source), byte b.seq,
   byte (64 * b.request.code + if b.hold then 32 else 0), byte b.payload.bytes.length]

/-- One bit into the check register (R153, steps 2 to 4). -/
def crcBit (reg : BitVec 16) (bit : Bool) : BitVec 16 :=
  let shifted := reg <<< 1
  if bit != reg.msb then shifted ^^^ 0x1021 else shifted

/-- One byte into the check register, most significant bit first (R153). -/
def crcByte (reg : BitVec 16) (b : Byte) : BitVec 16 :=
  [7, 6, 5, 4, 3, 2, 1, 0].foldl (fun r i => crcBit r (b.getLsbD i)) reg

/-- The check value over these bytes (R153). -/
def crc16 (bytes : List Byte) : BitVec 16 := bytes.foldl crcByte 0xFFFF

/-- The bytes after the start byte: header, payload, CRC (R137). -/
def Burst.bytes (b : Burst) : List Byte :=
  let body := b.header ++ b.payload.bytes
  body ++ bytes16 (crc16 body).toNat

/-! ### Bits on the line (R137, R140) -/

/-- A byte's bits as the line carries them, most significant bit first (R137). -/
def byteBits (b : Byte) : List Bool := [7, 6, 5, 4, 3, 2, 1, 0].map b.getLsbD

/-- The preamble: four bytes of alternating bits (R137). -/
def preamble : List Byte := List.replicate 4 0x55

/-- The start byte (R137). -/
def startByte : Byte := 0xB9

/-- All the bytes of a burst in the order they are sent: preamble, start byte, header, payload, CRC (R137). -/
def Burst.sent (b : Burst) : List Byte := preamble ++ startByte :: b.bytes

/-- What a node drives of a completed burst, one bit of each bit time (R137). -/
def Burst.onLine (b : Burst) : List Bool := b.sent.flatMap byteBits

/-- The burst's length on the line in bit times (R137). -/
def Burst.lineBits (b : Burst) : Nat := 8 * b.sent.length

/-- The jam: the alternating pattern of the preamble, 32 bits of it (R140; log entry 35). -/
def jamPattern : List Bool := preamble.flatMap byteBits

/-! ### Collecting a run (R145) -/

/-- What the receiver makes of eight bits (R137). -/
def byteOfBits (bits : List Bool) : Byte := byte (bits.foldl (fun n b => 2 * n + if b then 1 else 0) 0)

/-- The receiver's search for the start byte: the bits that follow its first appearance, none if it does not appear (R145; log
entry 34). -/
def afterStart : List Bool → Option (List Bool)
  | [] => none
  | b :: bits =>
    if (b :: bits).take 8 = byteBits startByte then some ((b :: bits).drop 8) else afterStart bits

/-- The whole bytes of these bits; bits left over at the end make no byte. -/
def wholeBytes : List Bool → List Byte
  | b7 :: b6 :: b5 :: b4 :: b3 :: b2 :: b1 :: b0 :: bits =>
    byteOfBits [b7, b6, b5, b4, b3, b2, b1, b0] :: wholeBytes bits
  | _ => []

/-- What the receiver collects of a run's bits: the whole bytes after the start byte, at most 54 of them; with more the run is
marked aborted (R145). -/
def Run.collect (r : Run) (bits : List Bool) : Run :=
  match afterStart bits with
  | none => r
  | some after =>
    let found := wholeBytes after
    { r with bytes := some (found.take Config.runBytes), aborted := decide (Config.runBytes < found.length) }

/-! ### Judging a received run -/

/-- What a received run is judged to be (R145). -/
inductive Judgement where
  | fragment
  | bad (reason : BadReason) (station : Option Nat) (value : Nat)
  | good (burst : Burst)
  deriving DecidableEq, Repr, Inhabited

/-- Declarations from their bytes; none if a byte is left over or a channel is above 15 (R154). -/
def parseDeclarations : List Byte → Option (List Declaration)
  | [] => some []
  | [_] => none
  | c :: r :: rest =>
    if c.toNat ≤ 15 then (parseDeclarations rest).map fun ds => (c.toNat, r.toNat) :: ds else none

/-- Declarations preceded by their count: at most four, and exactly that many bytes (R154). -/
def parseCounted : List Byte → Option (List Declaration)
  | [] => none
  | n :: rest => if n.toNat ≤ 4 ∧ rest.length = 2 * n.toNat then parseDeclarations rest else none

/-- An ANNOUNCE payload (R149, R154). -/
def parseAnnounce : List Byte → Option Payload
  | [] => none
  | pb :: rest =>
    let index := pb.toNat / 16
    let count := pb.toNat % 16
    if count = 0 ∨ 4 < count ∨ count ≤ index then none
    else if index = 0 then
      match rest with
      | role :: m1 :: m0 :: decls => (parseCounted decls).map (.page0 count role.toNat (word16 m1 m0))
      | _ => none
    else (parseCounted rest).map (.page index count)

/-- LEVEL entries, each channel above `floor` (R150, R154): a channel of 0..15, strictly ascending. `floor` is one more than
the channel before, 0 at the start. -/
def parseLevel (floor : Nat) : List Byte → Option (List (Nat × Int))
  | [] => some []
  | c :: hi :: lo :: rest =>
    if floor ≤ c.toNat ∧ c.toNat ≤ 15 then
      (parseLevel (c.toNat + 1) rest).map fun ps => (c.toNat, (word16 hi lo).toInt) :: ps
    else none
  | _ => none

/-- A TRIGGER item from its bytes; the bits the manual does not read change nothing (R151). -/
def parseItem (b0 b1 b2 b3 b4 : Byte) : TriggerItem :=
  if b0.msb then .cancel b1.toNat
  else .start (b0.toNat % 16) b1.toNat (b2.toNat % 16) b3.toNat (b0.toNat / 16 % 4) b4.toNat

/-- TRIGGER items of five bytes each (R151, R154). -/
def parseItems : List Byte → Option (List TriggerItem)
  | [] => some []
  | b0 :: b1 :: b2 :: b3 :: b4 :: rest => (parseItems rest).map (parseItem b0 b1 b2 b3 b4 :: ·)
  | _ => none

/-- A payload by its kind, or none where a format check of R154 fails. -/
def parsePayload (kind : Nat) (payload : List Byte) : Option Payload :=
  match kind with
  | 1 => parseAnnounce payload
  | 2 => (parseLevel 0 payload).map .level
  | 3 => if payload.length = 0 ∨ 20 < payload.length then none else (parseItems payload).map .trigger
  | 4 => if payload.length = 0 then some .bye else none
  | _ => none

/-- The kind and format checks on a body whose CRC agrees (R145 cases 4 and 5, R148, R154). `n` is the number of bytes
collected after the start byte. -/
def judgeBody (n : Nat) : List Byte → Judgement
  | h0 :: h1 :: h2 :: h3 :: payload =>
    let kind := h0.toNat / 16
    let source := h0.toNat % 16
    if kind = 0 ∨ 4 < kind then .bad .kind (some source) n
    else if h3.toNat ≠ payload.length then .bad .format (some source) n
    else match Mode.ofCode (h2.toNat / 64), parsePayload kind payload with
      | some request, some p => .good { source, seq := h1.toNat, request, hold := h2.getLsbD 5, payload := p }
      | _, _ => .bad .format (some source) n
  | _ => .fragment

/-- How a run is judged from what was collected of it: the first case of R145 that applies. -/
def Run.judge (r : Run) : Judgement :=
  match r.bytes with
  | none => .fragment
  | some bytes =>
    if bytes.length < 6 then .fragment
    else if r.aborted then .bad .length none bytes.length
    else
      let body := bytes.take (bytes.length - 2)
      if bytes.drop (bytes.length - 2) ≠ bytes16 (crc16 body).toNat then .bad .crc none bytes.length
      else judgeBody bytes.length body

end Sys2Proof.Machine
end

