-- ==== Sys2Proof/Machine/Transmit.lean ====
section
/-! DEFINITION. The Transmit Queue, the Transmit Engine and the Level Sender's requests (chapter 7), with the start of a
drive (R139). -/

namespace Sys2Proof.Machine

/-! ### Places of the queue (R116) -/

def Tx.free (tx : Tx) : Nat := Config.txPlaces - tx.entries.length

def Tx.full (tx : Tx) : Bool := Config.txPlaces ≤ tx.entries.length

/-- An entry joins at the last position (R116). -/
def Tx.push (tx : Tx) (e : TxEntry) : Tx :=
  { tx with entries := tx.entries ++ [e], last := (tx.last + 1) % Config.txPlaces }

/-- The entry at the current position leaves (R116). -/
def Tx.pop (tx : Tx) : Tx :=
  match tx.entries with
  | [] => tx
  | _ :: rest => { tx with entries := rest, current := (tx.current + 1) % Config.txPlaces }

/-- An entry leaves from any place; those behind it move up (R116). -/
def Tx.remove (tx : Tx) (i : Nat) : Tx :=
  if i = 0 then tx.pop
  else if i < tx.entries.length then
    { tx with entries := tx.entries.eraseIdx i, last := (tx.last + Config.txPlaces - 1) % Config.txPlaces }
  else tx

/-- A later page of an announce group (R117). -/
def TxEntry.laterPage (e : TxEntry) : Bool :=
  match e.body with
  | .page .middle .. => true
  | .page .last .. => true
  | _ => false

/-- A page of an announce group that has a page behind it in its group (R117). -/
def TxEntry.hasLaterPages (e : TxEntry) : Bool :=
  match e.body with
  | .page .first .. => true
  | .page .middle .. => true
  | _ => false

def TxEntry.isPage (e : TxEntry) : Bool :=
  match e.body with
  | .page .. => true
  | _ => false

def TxEntry.isLevel (e : TxEntry) : Bool :=
  match e.body with
  | .level .. => true
  | _ => false

/-- The later pages of a group leave with the page at whose drop they stand at the front (R124). They leave as that page does, one by
one at the current position, which advances past them: R124 does not say which of the two positions moves (DESIGN CHOICE; log entry
37). -/
def Tx.popLaterPages (n : Nat) (tx : Tx) : Tx :=
  match n with
  | 0 => tx
  | n + 1 =>
    match tx.entries with
    | e :: _ => if e.laterPage then Tx.popLaterPages n tx.pop else tx
    | [] => tx

/-! ### The engine's steps -/

/-- The engine takes a step of its work, within SUSPENDING too (R126). -/
def Engine.at (w : Work) : Engine → Engine
  | .suspending _ => .suspending w
  | _ => .working w

/-- The step the engine's current entry is in, if it works on one. -/
def Engine.work : Engine → Option Work
  | .working w => some w
  | .suspending w => some w
  | _ => none

/-- The burst built at the start of an attempt (R121, R148). -/
def State.buildBurst (s : State) (e : TxEntry) : Burst :=
  let payload : Payload :=
    match e.body with
    | .page _ index count known decls =>
      if index = 0 then .page0 count (roleCode s.cfg.role) (known.getD 0) decls else .page index count decls
    | .level pairs _ => .level pairs
    | .trigger item .. => .trigger [item]
    | .bye => .bye
  let hold := match e.body with
    | .level _ hold => hold
    | _ => false
  { source := s.cfg.station, seq := e.sequence.getD 0, request := s.output.ownRequest, hold, payload }

/-- The known mask: the peers this node holds PRESENT or HOLDING; its own station is not among them, as the worked join and
the worked decoding show (R97, R149; log entry 26). -/
def State.knownMask (s : State) : BitVec 16 :=
  let known := stations.filter fun st => (s.peerAt st).link.heard && !(s.peerAt st).self
  BitVec.ofNat 16 (known.map (2 ^ ·)).sum

/-- The current entry as its attempt begins: on the first attempt it is begun and takes the node's sequence number, and a
page 0 takes the known mask of this moment (R121). -/
def State.begunEntry (s : State) (e : TxEntry) : TxEntry :=
  if e.begun then e
  else
    let body := match e.body with
      | .page pos 0 count _ decls => .page pos 0 count (some s.knownMask) decls
      | b => b
    { e with body, begun := true, sequence := some s.tx.sequence }

/-- Page 0 of this node's announce group. -/
def TxEntry.isPage0 (e : TxEntry) : Bool :=
  match e.body with
  | .page _ 0 .. => true
  | _ => false

/-- An attempt starts at the instant `t`: DEFER passes to DRIVING (R121, R139). The run of others in progress, if any, is one
in which this node drives, so it is not received (R145). -/
def State.startAttempt (s : State) (t : Nat) : State :=
  match s.tx.entries with
  | [] => s
  | e :: rest =>
    let e' := s.begunEntry e
    { s with
      tx := { s.tx with
        entries := e' :: rest
        engine := s.tx.engine.at .driving
        sequence := if e.begun then s.tx.sequence else (s.tx.sequence + 1) % 256 }
      announce := if e.isPage0 && !e.begun then { s.announce with state := .begun } else s.announce
      line := { s.line with
        drive := .driving (s.buildBurst e') t
        run := s.line.run.map Run.discarded } }

/-- Whether the gap has ended: the quiet count stands at 64, which it does 64 bit times after it was set to 0 (R138). -/
def State.gapEnded (s : State) : Bool :=
  match s.line.quiet with
  | .stopped => false
  | .counting since => decide (since + Config.gapBits ≤ s.now)
  | .ended => true

/-- The engine enters DEFER for the current entry. If the gap has ended and carrier is absent, the drive begins at once
(R139). -/
def State.enterDefer (s : State) : State :=
  let d : State := { s with tx := { s.tx with engine := s.tx.engine.at .defer }, line := { s.line with wait := .none } }
  if s.gapEnded ∧ s.carrier = false then d.startAttempt s.now else d

/-- An idle engine turns to DEFER when an entry has joined (R120). -/
def State.wake (s : State) : State :=
  if s.tx.engine = .idle ∧ s.tx.entries ≠ [] then s.enterDefer else s

/-- An entry joins the queue (R116, R120). -/
def State.enqueue (s : State) (e : TxEntry) : State := State.wake { s with tx := s.tx.push e }

/-- After the current entry has left: SUSPENDED when QUIET's group is over, else DEFER or IDLE (R120, R126). -/
def State.nextEntry (s : State) (groupOver : Bool) : State :=
  match s.tx.engine with
  | .suspending _ =>
    if groupOver then
      { s with tx := { s.tx with engine := .suspended }, line := { s.line with wait := .none } }
    else s.enterDefer
  | .working _ =>
    if s.tx.entries = [] then { s with tx := { s.tx with engine := .idle }, line := { s.line with wait := .none } }
    else s.enterDefer
  | _ => s

/-! ### The Level Sender asks for a LEVEL (R118, R134) -/

/-- The pairs a LEVEL carries: every produced channel that has a posted value, ascending (R134). -/
def State.levelPairs (s : State) : List (Nat × Int) :=
  s.produced.filterMap fun c => (s.sender.posted.getD c none).map fun v => (c, v)

/-- The LEVEL entry that has not begun takes this payload (R118). -/
def rewriteLevel (pairs : List (Nat × Int)) (hold : Bool) (e : TxEntry) : TxEntry :=
  if e.isLevel && !e.begun then { e with body := .level pairs hold } else e

/-- A LEVEL is asked for: the waiting entry is rewritten, or an entry joins, or the LEVEL is held pending (R118). -/
def State.queueLevel (s : State) (hold : Bool) : State :=
  if s.tx.entries.any fun e => e.isLevel && !e.begun then
    { s with tx := { s.tx with entries := s.tx.entries.map (rewriteLevel s.levelPairs hold) } }
  else if s.tx.full then { s with sender := { s.sender with pending := some hold } }
  else s.enqueue { body := .level s.levelPairs hold }

/-- The hold flag of a LEVEL the sender's state gives (R133). -/
def LevelSender.holdFlag (l : LevelSender) : Bool := l.state == .holding

/-! ### Announce groups (R97, R105, R119) -/

/-- The place of page `i` in a group of `count` pages (R117, R119). -/
def groupPos (count i : Nat) : GroupPos :=
  if count = 1 then .alone else if i = 0 then .first else if i + 1 = count then .last else .middle

/-- The pages of this node's group: four declarations each, one page if there are none (R97). -/
def groupPages (decls : List Declaration) : List TxEntry :=
  let count := max 1 ((decls.length + 3) / 4)
  (List.range count).map fun i =>
    { body := .page (groupPos count i) i count none ((decls.drop (4 * i)).take 4) }

/-- The group joins if places are free for all its pages; else it waits outside the queue (R119). -/
def State.joinGroup (s : State) : State :=
  let pages := groupPages s.ownDeclarations
  if pages.length ≤ s.tx.free then
    State.wake { s with tx := pages.foldl Tx.push s.tx, announce := { s.announce with waiting := false } }
  else { s with announce := { s.announce with waiting := true } }

/-- A group is queued (R105, R119). -/
def State.queueGroup (s : State) : State :=
  State.joinGroup { s with announce := { s.announce with state := .queued } }

/-- A place has freed: a pending LEVEL takes it first, and a waiting group joins when enough remain (R118, R119). -/
def State.settleWaiting (s : State) : State :=
  let s := match s.sender.pending with
    | some hold =>
      if s.tx.full then s
      else State.enqueue { s with sender := { s.sender with pending := none } } { body := .level s.levelPairs hold }
    | none => s
  if s.announce.waiting then s.joinGroup else s

/-- A re-announce request (R103, R104, R105). -/
def State.requestAnnounce (s : State) : State :=
  if s.listener then s
  else if s.node.state = .joining ∨ s.node.state = .active then
    match s.announce.state with
    | .none =>
      if s.announce.holdOff.isSome then { s with announce := { s.announce with remembered := true } }
      else s.queueGroup
    | .queued => s
    | .begun => { s with announce := { s.announce with remembered := true } }
  else s

/-- The JOIN operation ends: READY rises, and the join window starts if the node is still JOINING (R111, R112). -/
def State.endJoin (s : State) : State :=
  if s.port.blocking = .join then
    let s := s.endBlocking
    if s.node.state = .joining then { s with node := { s.node with window := some s.now } } else s
  else s

/-- This node's group is complete: its last page completed, or the group was dropped (R105, R111). -/
def State.groupOver (s : State) (completed : Bool) : State :=
  let s : State := { s with announce := { s.announce with state := .none } }
  let s :=
    if s.announce.remembered then State.queueGroup { s with announce := { s.announce with remembered := false } }
    else if completed then { s with announce := { s.announce with holdOff := some s.now } }
    else s
  s.endJoin

/-! ### Drops (R124, R125) -/

/-- The entry at the current position is dropped as LATE or EXCESSIVE (R124). -/
def State.dropCurrent (s : State) (reason : TxReason) : State :=
  match s.tx.entries with
  | [] => s
  | e :: _ =>
    let popped := s.tx.pop
    let left := if e.hasLaterPages then popped.popLaterPages 3 else popped
    let s : State := { s with tx := left }
    let s := s.report .txDropped (station := some s.cfg.station) (detail := some reason.code)
      (value := e.sequence.map Int.ofNat)
    let s := s.countTxDropped.settleWaiting.nextEntry true
    match e.body with
    | .page .. => s.groupOver false
    | .bye => { s with node := { s.node with leaveDue := true } }
    | _ => s

/-- The channel and event id of a stale TRIGGER's record; a CANCEL item has no channel (R44, R125). -/
def TriggerItem.staleFields : TriggerItem → Option Nat × Nat
  | .start channel event .. => (some channel, event)
  | .cancel event => (none, event)

/-- A TRIGGER entry is dropped as stale (R125). `i` counts places behind the current position. -/
def State.dropStale (s : State) (i : Nat) (item : TriggerItem) : State :=
  let f := item.staleFields
  let s : State := { s with tx := s.tx.remove i }
  let s := (s.reportDropped .stale s.cfg.station f.1 f.2).countTxDropped.settleWaiting
  if i = 0 then s.nextEntry true else s

/-! ### Failed attempts and backoff (R123, R142, R143) -/

/-- One step of the backoff register (R142). -/
def lfsrStep (r : BitVec 16) : BitVec 16 :=
  let low := (r.getLsbD 15 ^^ r.getLsbD 13) ^^ (r.getLsbD 12 ^^ r.getLsbD 10)
  (r <<< 1) ||| (if low then 1 else 0)

/-- The seed of the register at JOIN (R142). -/
def lfsrSeed (seed : BitVec 16) (station : Nat) : BitVec 16 :=
  let v := seed ^^^ BitVec.ofNat 16 (station * 0x1111)
  if v = 0 then 1 else v

/-- The slots drawn from the register's low bits after the step, with this attempts count (R143). -/
def drawSlots (r : BitVec 16) (attempts : Nat) : Nat := r.toNat % 2 ^ min attempts 6

/-- The entry at the current position is kept for a retry: the register steps, the slots are drawn, and the engine goes to
BACKOFF for the wait, which begins now. A wait of no slots ends at once (R123, R143; log entry 11). -/
def State.keepForRetry (s : State) (e : TxEntry) : State :=
  let reg := lfsrStep s.line.backoffReg
  let slots := drawSlots reg e.attempts
  let s : State := { s with
    tx := { s.tx with
      entries := match s.tx.entries with
        | [] => []
        | _ :: rest => e :: rest
      engine := s.tx.engine.at .backoff }
    line := { s.line with backoffReg := reg, wait := .running (s.now + slots * Config.slotBits) } }
  if slots = 0 then s.enterDefer else s

/-- A failed attempt, reported now: a collision within the window once its jam has been driven, or an echo failure (R123). -/
def State.attemptFailed (s : State) : State :=
  match s.tx.entries with
  | [] => s
  | e :: _ =>
    let tried := { e with attempts := e.attempts + 1 }
    let retryOrDrop :=
      if tried.attempts < Config.maxAttempts then s.keepForRetry tried
      else if s.cfg.timing.persist then s.keepForRetry { e with attempts := 0 }
      else s.dropCurrent .excessive
    match e.body with
    | .trigger item _ deadline => if deadline ≤ s.now then s.dropStale 0 item else retryOrDrop
    | _ => retryOrDrop

end Sys2Proof.Machine
end

