-- ==== Sys2Proof/Machine/Mode.lean ====
section
/-! DEFINITION. The mode vote and the Output Stage (chapter 4). -/

namespace Sys2Proof.Machine

/-- One condition's request: it counts while the condition holds, and LIVE restricts nothing (R61). -/
def requestWhile (cond : Bool) (m : Mode) : Mode := if cond then m else .live

/-- The own request formed from its inputs (R61). -/
def State.formOwnRequest (s : State) : Mode :=
  ((((s.output.localRequest.worse
    (requestWhile s.haltLow .park)).worse
    (requestWhile s.monitor.trip .park)).worse
    (requestWhile (s.node.state == .fault) .park)).worse
    (requestWhile (s.node.state == .config || s.node.state == .joining) .ease))

/-- A peer's vote (R67). An ABSENT station does not vote, and the SELF row holds no request that the vote reads (R66). -/
def PeerRecord.vote (p : PeerRecord) : Mode :=
  if p.self then .live
  else match p.link with
    | .absent => .live
    | .present | .holding => p.lastRequest.getD .live
    | .lost => (p.lastRequest.getD .live).worse .ease

/-- A station counts for a role: a PRESENT or HOLDING peer that declared it, or this node itself if it talks (R68). -/
def State.roleCounted (s : State) (r : Role) : Bool :=
  (s.peers.any fun p => !p.self && p.link.heard && decide (p.role = some r)) ||
    (!s.listener && decide (s.cfg.role = some r))

/-- Some required role has no station that counts for it (R68). -/
def State.roleMissing (s : State) : Bool := s.cfg.required.any fun r => !s.roleCounted r

/-- The effective mode formed from its voters (R67). -/
def State.formEffective (s : State) : Mode :=
  (s.peers.foldl (fun m p => m.worse p.vote) s.output.ownRequest).worse (requestWhile s.roleMissing .ease)

/-- Put a new stage and report the change with the factor of the moment (R79). -/
def State.changeStage (s : State) (stage : Stage) : State :=
  State.report { s with output := { s.output with stage } } .stageChanged (detail := some stage.code)
    (value := some s.output.factor)

/-- Whether the effective mode is LIVE and the node ACTIVE (R71). -/
def State.mayRise (s : State) : Bool := s.output.effective == .live && s.node.state == .active

/-- The stage changes at once when the effective mode or the node state changes; the factor does not (R71). -/
def State.turnStage (s : State) : State :=
  match s.output.stage with
  | .live | .rising => if s.mayRise then s else s.changeStage .easing
  | .easing | .parked => if s.mayRise then s.changeStage .rising else s

/-- The own request is formed again; a change of it asks the Level Sender for a LEVEL while that is CHANGING or HOLDING
(R61, R65, R133). -/
def State.formRequest (s : State) : State :=
  let own := s.formOwnRequest
  if own = s.output.ownRequest then s
  else
    let s : State := { s with output := { s.output with ownRequest := own } }
    if s.sender.state = .silent then s else s.queueLevel s.sender.holdFlag

/-- The effective mode is evaluated once for an event, and a change is reported (R69). -/
def State.evaluateMode (s : State) : State :=
  let mode := s.formEffective
  if mode = s.output.effective then s
  else
    State.report { s with output := { s.output with effective := mode } } .modeChanged (detail := some mode.code)
      (value := some s.output.effective.code)

/-- What every event that can change a vote ends with: the own request, the effective mode, the stage (R61, R69, R71). -/
def State.revote (s : State) : State := s.formRequest.evaluateMode.turnStage

/-! ### The factor step (R72, R73, R75) -/

/-- The step an EASING stage takes (R72). -/
def State.easeBy (s : State) : Nat :=
  if s.output.effective = .park then s.cfg.parkStep else s.cfg.easeStep

/-- The Output Stage's hand-over: one factor step, and the change of stage it brings (R72, R73, R75). Entering PARKED frees
the players after the record is raised. -/
def State.stepFactor (s : State) : State :=
  match s.output.stage with
  | .easing =>
    if s.easeBy < s.output.factor then
      { s with output := { s.output with factor := s.output.factor - s.easeBy } }
    else
      let parked := State.changeStage { s with output := { s.output with factor := 0 } } .parked
      { parked with players := freePlayers }
  | .rising =>
    let factor := s.output.factor + s.cfg.riseStep
    if factor < Config.fullFactor then { s with output := { s.output with factor } }
    else State.changeStage { s with output := { s.output with factor := Config.fullFactor } } .live
  | .live | .parked => s

end Sys2Proof.Machine
end

