-- ==== Sys2Proof/Machine/Node.lean ====
section
/-! DEFINITION. The Node Controller (section 6.6), the lifecycle commands (R159), the resets (R164), and HALT_N (R63). -/

namespace Sys2Proof.Machine

/-! ### Shared operations -/

/-- A change of node state, reported with the state before it (section 6.6). -/
def State.enterNode (s : State) (state : NodeState) : State :=
  State.report { s with node := { s.node with state } } .nodeState (detail := some state.code)
    (value := some s.node.state.code)

/-- The Level Sender becomes SILENT: its timers stop and a pending LEVEL is discarded; its values are kept (R131). -/
def LevelSender.silenced (l : LevelSender) : LevelSender :=
  { l with state := .silent, levelTimer := none, refresh := none, pending := none }

/-- Carrier of this node ends at the instant `t`. If no run of others is in progress the line has fallen quiet, and the
quiet count starts from 0 while the receive path is open (R138). -/
def Line.released (l : Line) (t : Nat) : Line :=
  { l with
    drive := .idle
    quiet := if l.run.isNone && l.receiveOpen then .counting t else l.quiet }

/-- An attempt is cut at the bit then being driven, in its burst or in its jam: the node is off the line, and the attempt has
no outcome (R128, R140; log entry 28). -/
def State.cutDrive (s : State) : State :=
  match s.line.drive with
  | .idle => s
  | .driving .. | .jamming .. => { s with line := s.line.released s.now }

/-- The node states FAULT is entered from (R114). -/
def NodeState.joined : NodeState → Bool
  | .joining | .active | .leaving => true
  | .config | .fault => false

/-- A JOIN or LEAVE operation in progress ends (R111, R113). -/
def Port.endSession (p : Port) : Port :=
  match p.blocking with
  | .join | .leave => { p with blocking := .none, ready := true }
  | _ => p

/-- FAULT entry (R114, R128, R131). A cause that arrives outside JOINING, ACTIVE and LEAVING changes nothing. -/
def State.enterFault (s : State) : State :=
  if s.node.state.joined then
    let s := (s.enterNode .fault).cutDrive
    let s : State := { s with
      node := { s.node with window := none, leaveDue := false }
      tx := { s.tx with engine := .stopped }
      line := { s.line with wait := .none }
      sender := s.sender.silenced
      announce := { s.announce with holdOff := none, remembered := false, waiting := false }
      port := s.port.endSession }
    s.revote
  else s

/-- A station record as every way into CONFIG leaves it; LEAVE completion keeps the three counters (R93). -/
def PeerRecord.cleared (p : PeerRecord) : PeerRecord :=
  { self := p.self, gaps := p.gaps, losses := p.losses, undeclared := p.undeclared }

/-- The records after RESTART or power-on reset: the SELF marker on the row of the configured station (R93). -/
def clearedPeers (station : Nat) : List PeerRecord :=
  stations.map fun st => { self := st == station }

/-- The receive path closes: the quiet count does not run, and a run in progress is discarded (R138, R145). -/
def Line.closed (l : Line) : Line :=
  { l with
    receiveOpen := false
    quiet := .stopped
    run := l.run.map Run.discarded }

/-- The stage is parked at once, wherever the ramp stood; the change is reported if the stage was not PARKED (R78). -/
def State.parkNow (s : State) : State :=
  let atRest : State := { s with output := { s.output with factor := 0 } }
  if s.output.stage = .parked then atRest else atRest.changeStage .parked

/-- LEAVE completion (R113, and R4, R42, R52, R78, R81, R93, R130, R144 for what each block holds after it). -/
def State.completeLeave (s : State) : State :=
  let s := s.enterNode .config
  let s : State := { s with
    peers := s.peers.map PeerRecord.cleared
    announce := {}
    sources := []
    players := freePlayers
    merge := { s.merge with limited := List.replicate 8 0 }
    monitor := { s.monitor with axes := List.replicate 8 {} }
    tx := { s.tx with entries := [], current := 0, last := 0, engine := .off }
    sender := {}
    line := { s.line.closed with wait := .none, echoFails := 0 }
    fifo := []
    node := { s.node with quiet := false, window := none, leaveDue := false }
    port := s.port.endSession }
  s.formRequest.evaluateMode.parkNow

/-! ### JOIN -/

/-- The SELF row while the node is joined (R92). -/
def PeerRecord.selfJoined (role : Option Role) (decls : List Declaration) (p : PeerRecord) : PeerRecord :=
  { p with link := .present, role, declared := decls }

/-- The Source Table gets this node's own entries, one EMPTY entry for each channel it produces (R4). -/
def State.createOwnEntries (s : State) : State :=
  { s with sources := redeclare s.cfg.station s.ownDeclarations s.sources }

/-- What JOIN does to the Source Table: the own entries stand at once, or wait for the end of the pass in progress (R4, R11, R49). -/
def State.joinSources (s : State) : State := s.orHold .ownEntries s.createOwnEntries

/-- JOIN taken in CONFIG (R111, R4, R92, R112, R138, R142, R144). -/
def State.joinNow (s : State) : State :=
  let quiet : Quiet := if s.carrier then .stopped else .counting s.now
  let s := s.enterNode .joining
  let s : State := { s with
    line := { s.line with
      backoffReg := lfsrSeed s.cfg.seed s.cfg.station, echoFails := 0, receiveOpen := true, quiet }
    tx := { s.tx with sequence := 0 } }
  let s :=
    if s.listener then { s with node := { s.node with window := some s.now } }
    else
      let s : State := { s.mapPeer s.cfg.station (PeerRecord.selfJoined s.cfg.role s.ownDeclarations) with
        tx := { s.tx with engine := .idle }
        port := { s.port with blocking := .join } }
      s.joinSources.queueGroup
  s.revote

/-- JOIN (R111, R159). -/
def execJoin (t : Nat) (s : State) : Answer :=
  let s := s.advance t
  .next (s.configCommand (s.joinNow.answer .ok))

/-! ### LEAVE -/

/-- What LEAVE does to the Transmit Queue and the engine (R129, R105). -/
def State.queueBye (s : State) : State :=
  let kept := s.tx.entries.filter (·.begun)
  let groupLeft := kept.any (·.isPage)
  let s : State := { s with
    tx := { s.tx with entries := kept, last := (s.tx.current + kept.length) % Config.txPlaces }
    announce := { s.announce with
      waiting := false
      state := if groupLeft then s.announce.state else .none } }
  let s := s.enqueue { body := .bye }
  match s.tx.engine with
  | .suspending w => { s with tx := { s.tx with engine := .working w } }
  | .suspended => s.enterDefer
  | _ => s

/-- LEAVE taken on a talking node in JOINING or ACTIVE (R113, R129, R131). -/
def State.leaveTalking (s : State) : State :=
  let s := s.enterNode .leaving
  let s : State := { s with
    node := { s.node with window := none }
    announce := { s.announce with remembered := false }
    sender := s.sender.silenced
    port := { s.port with blocking := .leave } }
  s.revote.queueBye

/-- LEAVE taken on a listener: it passes through LEAVING, where a stage that was LIVE or RISING turns to EASING (R71, R76), to
LEAVE completion, which waits for a pass in progress (R113, R49). The vote is evaluated at LEAVE completion, once for the event
(R69; log entry 13). -/
def State.leaveListening (s : State) : State :=
  let s := s.enterNode .leaving
  let s : State := { s with
    node := { s.node with window := none }
    announce := { s.announce with remembered := false } }
  if s.merge.pass.isSome then
    let s : State := { s with
      node := { s.node with leaveDue := true }
      merge := { s.merge with held := s.merge.held ++ [.leaveCompletion] } }
    s.revote
  else s.turnStage.completeLeave

/-- LEAVE (R113, R159). -/
def execLeave (t : Nat) (s : State) : Answer :=
  let s := s.advance t
  .next (s.command
    (if s.node.state = .joining ∨ s.node.state = .active then
      (if s.listener then s.leaveListening else s.leaveTalking).answer .ok
    else s.answer .state))

/-- LEAVE_COMPLETION, once the BYE has completed or been dropped, in LEAVING (R113); held while a pass is in progress
(R49). -/
def execLeaveCompletion (s : State) : Answer :=
  .next (s.unlessReset
    (if s.node.leaveDue ∧ s.node.state = .leaving then s.orHold .leaveCompletion s.completeLeave else s))

/-! ### Resets -/

/-- The mode of the own request and of the effective mode after a reset (R70). -/
def resetMode (haltLow : Bool) : Mode := if haltLow then .park else .ease

/-- The node after RESTART: every block's state for RESTART, with the settings, the profiles and the routes kept (R159, and
R4, R19, R24, R28, R47, R52, R58, R62, R70, R78, R81, R93, R130, R131, R142, R144, R146, R147, R169). A pass in progress is
abandoned and a drive is cut (R49, R130). The pins and the line stay as they are outside. The new period has the length of the
setting as it stands: R47 does not say which length it has where SET TIMING has changed the setting and no expiry has followed
(DESIGN CHOICE; log entry 36). -/
def State.restarted (s : State) : State :=
  { State.reset with
    pending := s.pending
    now := s.now
    haltLow := s.haltLow
    strobes := s.strobes
    cfg := s.cfg
    store := { s.store with writing := none }
    line := { run := s.line.run.map Run.discarded }
    peers := clearedPeers s.cfg.station
    merge := {
      periodDue := s.now + Config.periodBits s.cfg.timing.periodCode
      frame := { mode := resetMode s.haltLow } }
    output := { ownRequest := resetMode s.haltLow, effective := resetMode s.haltLow }
    port := { s.port with blocking := .none, ready := true }
    events := { routes := s.events.routes } }

/-- RESTART: answered OK in every node state whenever READY is high (R159). -/
def execRestart (t : Nat) (s : State) : Answer :=
  let s := s.advance t
  .next (s.command (s.restarted.answer .ok))

/-- The decoder once RST_N has fallen: a transaction in progress is discarded, and the rest of its bytes are ignored until SEL_N
rises (R164). -/
def Decoder.discarded : Decoder → Decoder
  | .waiting => .waiting
  | _ => .ignoring

/-- POWER_ON_RESET: RST_N is released; every block takes its power-on values and the first period begins (R164, R47). The
levels of HALT_N, of SEL_N and of the line are those outside: where SEL_N is low, the decoder takes the next command after its
rise. -/
def execPowerOnReset (t : Nat) (s : State) : Answer :=
  let s := s.advance t
  .next { State.reset with
    pending := s.pending
    now := s.now
    haltLow := s.haltLow
    strobes := s.strobes
    line := { run := s.line.run.map Run.discarded }
    merge := {
      periodDue := s.now + Config.periodBits 1
      frame := { mode := resetMode s.haltLow } }
    output := { ownRequest := resetMode s.haltLow, effective := resetMode s.haltLow }
    port := { decoder := s.port.decoder.discarded } }

/-- RST_N_FALL: RST_N is low from now on. A pass in progress is abandoned, a drive is cut without a jam, the transaction and
an unfinished operation are discarded, READY is low, and the alert lines are deasserted (R164, R49, R140). The rest is not
observable while RST_N is held low, and takes its power-on values at the release (log entry 15). -/
def execRstNFall (s : State) : Answer :=
  .next { s with
    inReset := true
    merge := { s.merge with pass := none, held := [] }
    line := { s.line.closed with drive := .idle, wait := .none }
    store := { s.store with writing := none }
    port := { decoder := s.port.decoder.discarded, ready := false } }

/-! ### QUIET and SPEAK -/

/-- The conditions of QUIET, SPEAK, FIRE and CANCEL: ACTIVE, on a talking node (R159, R161). -/
def State.activeTalking (s : State) : Bool := s.node.state == .active && !s.listener

/-- What QUIET does to the engine (R126). -/
def Engine.quieted : Engine → Engine
  | .idle => .suspended
  | .working w => .suspending w
  | e => e

/-- QUIET (R126, R159). -/
def execQuiet (s : State) : Answer :=
  .next (s.command
    (if s.activeTalking then
      State.answer { s with node := { s.node with quiet := true }, tx := { s.tx with engine := s.tx.engine.quieted } } .ok
    else s.answer .state))

/-- What SPEAK does to the engine (R127). -/
def State.resumeEngine (s : State) : State :=
  match s.tx.engine with
  | .suspending w => { s with tx := { s.tx with engine := .working w } }
  | .suspended =>
    if s.tx.entries = [] then { s with tx := { s.tx with engine := .idle } } else s.enterDefer
  | _ => s

/-- SPEAK (R127, R159). -/
def execSpeak (t : Nat) (s : State) : Answer :=
  let s := s.advance t
  .next (s.command
    (if s.activeTalking then
      (State.resumeEngine { s with node := { s.node with quiet := false } }).answer .ok
    else s.answer .state))

/-! ### JOIN window and HALT_N -/

/-- The Level Sender begins as a talking node becomes ACTIVE (R131). -/
def State.startSender (s : State) : State :=
  State.queueLevel { s with sender := { s.sender with
    state := .changing, unchanged := 0, levelTimer := some 0, refresh := some s.now } } false

/-- JOIN_WINDOW_EXPIRY: the node becomes ACTIVE, the vote is evaluated, and the Level Sender begins (R112, R131). The own
request changes while the Level Sender is still SILENT, so the session's first LEVEL is one burst. -/
def execJoinWindowExpiry (s : State) : Answer :=
  .next (s.unlessReset
    (match s.node.window with
    | some started =>
      let s := s.advance (started + ms s.cfg.timing.silence)
      let s : State := { s with node := { s.node with window := none } }
      let s := (s.enterNode .active).revote
      if s.listener then s else s.startSender
    | none => s))

/-- HALT_N_CHANGE: the pin takes a new level, and the halt input of the own request starts or stops counting (R63). The same
level again is no change. While RST_N is held low only the level counts (R164). -/
def execHaltNChange (t : Nat) (low : Bool) (s : State) : Answer :=
  let s := s.advance t
  if low = s.haltLow then .next s
  else
    let s : State := { s with haltLow := low }
    .next (s.unlessReset s.revote)

end Sys2Proof.Machine
end

