-- ==== Sys2Proof/Machine/Level.lean ====
section
/-! DEFINITION. The Level Sender's decisions (R132, R133), POST (R160), FIRE and CANCEL (R161), and the announce hold-off
(R105). -/

namespace Sys2Proof.Machine

/-- A channel has moved against what was last sent (R132). -/
def State.channelMoved (s : State) (c : Nat) : Bool :=
  match s.sender.posted.getD c none, s.sender.lastSent.getD c none with
  | none, _ => false
  | some _, none => true
  | some v, some w => decide ((s.channel c).deadband < (v - w).natAbs)

/-- Some produced channel, or the own request, has moved (R132). -/
def State.levelMoved (s : State) : Bool :=
  s.produced.any s.channelMoved || decide (s.sender.lastRequest ≠ some s.output.ownRequest)

/-- The check at a level interval expiry (R132). -/
def State.checkLevel (s : State) : State :=
  if s.levelMoved then
    State.queueLevel { s with sender := { s.sender with unchanged := 0, state := .changing } } false
  else if s.sender.unchanged < s.cfg.timing.holdAfter then
    let n := s.sender.unchanged + 1
    { s with sender := { s.sender with
        unchanged := n
        state := if n = s.cfg.timing.holdAfter then .holding else s.sender.state } }
  else s

/-- LEVEL_INTERVAL_EXPIRY: the timer has counted a level interval of output period expiries; it restarts, and the sender
checks (R132). Where it has not yet counted them there is no expiry (log entry 5). -/
def execLevelIntervalExpiry (s : State) : Answer :=
  match s.sender.levelTimer with
  | some n =>
    .next (s.unlessReset
      (if s.cfg.timing.levelInterval ≤ n then
        State.checkLevel { s with sender := { s.sender with levelTimer := some (n - s.cfg.timing.levelInterval) } }
      else s))
  | none => .next s

/-- REFRESH_TIMER_EXPIRY: the timer restarts and a LEVEL is queued with the hold flag of the sender's state (R133). -/
def execRefreshTimerExpiry (s : State) : Answer :=
  match s.sender.refresh with
  | some started =>
    let due := s.advance (started + ms s.cfg.timing.refresh)
    .next (s.unlessReset
      (State.queueLevel { due with sender := { due.sender with refresh := some due.now } } s.sender.holdFlag))
  | none => .next s

/-- ANNOUNCE_HOLD_OFF_EXPIRY: the hold-off ends, and a remembered request queues a group (R105). -/
def execAnnounceHoldOffExpiry (s : State) : Answer :=
  match s.announce.holdOff with
  | some started =>
    let due := s.advance (started + ms s.cfg.timing.refresh)
    let s' : State := { due with announce := { due.announce with holdOff := none, remembered := false } }
    .next (s.unlessReset (if s.announce.remembered then s'.queueGroup else s'))
  | none => .next s

/-! ### POST -/

/-- A pair POST accepts: a channel configured as produced (R160). -/
def State.postable (s : State) (p : Byte × Word16) : Bool := s.produced.contains p.1.toNat

/-- The posted values after the pairs, in the order given (R160). -/
def postPairs (pairs : List (Byte × Word16)) (posted : List (Option Int)) : List (Option Int) :=
  pairs.foldl (fun l p => l.set p.1.toNat (some (cueOf p.2))) posted

/-- POST (R160, R131). A POST whose pairs are not all in is not yet taken (R155; log entry 8). -/
def execPost (count : Byte) (pairs : List (Byte × Word16)) (s : State) : Answer :=
  let n := if 1 ≤ count.toNat ∧ count.toNat ≤ 16 then count.toNat else 0
  let given := pairs.take n
  .next (s.onPort
    (if pairs.length < n then { s with port := { s.port with decoder := .takingParameters } }
    else s.command
      (if s.listener ∨ ¬(s.node.state = .joining ∨ s.node.state = .active) then s.answer .state
      else if n = 0 ∨ !given.all s.postable then s.answer .param
      else State.answer { s with sender := { s.sender with posted := postPairs given s.sender.posted } } .ok)))

/-! ### FIRE and CANCEL -/

/-- A TRIGGER entry of one item, queued now (R117, R119). -/
def State.triggerEntry (s : State) (item : TriggerItem) : TxEntry :=
  { body := .trigger item s.now (s.now + ms s.cfg.timing.stale) }

/-- A TRIGGER entry joins the queue, or the command is answered FULL (R119, R161). -/
def State.queueTrigger (s : State) (item : TriggerItem) : State :=
  if s.tx.full then s.answer .full else (s.enqueue (s.triggerEntry item)).answer .ok

/-- FIRE (R161). -/
def execFire (t : Nat) (channel event profile amplitude priority lead : Byte) (s : State) : Answer :=
  let s := s.advance t
  .next (s.command
    (if !s.activeTalking then s.answer .state
    else if 15 < channel.toNat ∨ 15 < profile.toNat ∨ 3 < priority.toNat then s.answer .param
    else s.queueTrigger
      (.start channel.toNat event.toNat profile.toNat amplitude.toNat priority.toNat lead.toNat)))

/-- CANCEL (R161). -/
def execCancel (t : Nat) (event : Byte) (s : State) : Answer :=
  let s := s.advance t
  .next (s.command
    (if s.activeTalking then s.queueTrigger (.cancel event.toNat) else s.answer .state))

end Sys2Proof.Machine
end

