-- ==== Sys2Proof/Machine/Axes.lean ====
section
/-! DEFINITION. Axis computation (chapter 3): demand, rate limit, scale and clip, one axis at a time. -/

namespace Sys2Proof.Machine

/-- The term of one tap: the exact product rounded once (R51). -/
def Tap.term (values : List Int) (t : Tap) : Int := roundDiv (values.getD t.channel 0 * t.gain) 4096

/-- The demand of an axis: the exact sum of its terms, saturated (R51). -/
def Axis.demand (values : List Int) (a : Axis) : Int := saturate ((a.taps.map (Tap.term values)).sum)

/-- The limited value moves toward the demand by at most the slew (R52). -/
def rateLimit (slew : Nat) (limited demand : Int) : Int := limited + clampInt (-slew) slew (demand - limited)

/-- The pre value: the limited value scaled by the factor (R53). -/
def scale (limited : Int) (factor : Nat) : Int := roundDiv (limited * factor) 4096

/-- The output: the pre value clamped to the axis's clip (R54). -/
def clipValue (clip : Nat) (pre : Int) : Int := clampInt (-clip) clip pre

/-- What one axis makes of a pass's channel values. -/
structure AxisResult where
  demand : Int
  limited : Int
  pre : Int
  output : Int
  deriving DecidableEq, Repr, Inhabited

/-- Stages 4 to 7 of one axis (R51 to R54). -/
def Axis.compute (values : List Int) (factor : Nat) (limited : Int) (a : Axis) : AxisResult :=
  let demand := a.demand values
  let l := rateLimit a.slew limited demand
  let pre := scale l factor
  { demand, limited := l, pre, output := clipValue a.clip pre }

/-- The flags of an axis settled at stage 7, with the previous ones kept (R54, R82, R84). -/
def AxisMonitor.settle (a : Axis) (r : AxisResult) (m : AxisMonitor) : AxisMonitor :=
  { m with
    prevWarn := m.warn, warn := warnFlag a.warn a.hysteresis m.warn r.output,
    prevClip := m.clip, clip := clipFlag a.clip r.pre }

/-- The monitor's hard count of an axis at the hand-over (R85). -/
def AxisMonitor.count (stage : Stage) (a : Axis) (demand : Int) (m : AxisMonitor) : AxisMonitor :=
  { m with hardCount := hardCountAfter stage a.hardLimit a.hardCount m.hardCount demand }

/-- The numbers of the axes and of the channels. -/
def axisNumbers : List Nat := List.range 8

def channelNumbers : List Nat := List.range 16

end Sys2Proof.Machine
end

