-- ==== Sys2Proof/Machine/LineAccess.lean ====
section
/-! DEFINITION. Access to the cue line (chapter 8) and the outcomes of an attempt (section 7.4). -/

namespace Sys2Proof.Machine

/-! ### The Receive FIFO -/

/-- A burst offered to the Receive FIFO joins behind the others, or is dropped with RX_OVERRUN when four are held (R146). -/
def State.offerBurst (s : State) (e : FifoEntry) : State :=
  if s.fifo.length < Config.fifoPlaces then { s with fifo := s.fifo ++ [e] }
  else
    let counted : State :=
      { s with counters := { s.counters with rxOverruns := satAdd Config.counterMax s.counters.rxOverruns 1 } }
    counted.report .rxOverrun (station := some e.burst.source) (detail := some e.burst.payload.kind)
      (value := some e.burst.seq)

/-! ### Carrier of others -/

/-- The quiet count as carrier begins at the instant `t`: stopped below 40, left to run on from 40 (R138). -/
def Quiet.atCarrier (t : Nat) : Quiet → Quiet
  | .counting since => if t - since < Config.gapRestartBits then .stopped else .counting since
  | q => q

/-- CARRIER_START: a run of others begins. It is received if the receive path is open and this node is not driving (R138,
R145). -/
def execCarrierStart (t : Nat) (s : State) : Answer :=
  let s := s.advance t
  .next (if s.line.run.isSome then s
    else { s with line := { s.line with
      run := some { received := s.line.receiveOpen && decide (s.line.drive = .idle) }
      quiet := s.line.quiet.atCarrier s.now } })

/-- What a received run comes to as it has been collected (R145). -/
def State.takeRun (s : State) (r : Run) : State :=
  match r.judge with
  | .fragment =>
    { s with counters := { s.counters with fragments := satAdd Config.counterMax s.counters.fragments 1 } }
  | .bad reason station value => s.reportBad reason station (some value)
  | .good burst => s.offerBurst { burst, endInstant := s.now, own := false }

/-- RUN_END: carrier of others ends. The quiet count starts again from 0 if this node is not on the line, and a received run
is collected and judged (R138, R145, R146). A run whose start no command gave is taken as begun while nothing was driven (log
entry 9). -/
def execRunEnd (t : Nat) (bits : List Bool) (s : State) : Answer :=
  let s := s.advance t
  let run : Run := s.line.run.getD { received := decide (s.line.drive = .idle) }
  let l : Line := { s.line with run := none }
  let s' : State := { s with line :=
    if s.line.receiveOpen && decide (s.line.drive = .idle) then { l with quiet := .counting s.now } else l }
  .next (if s.line.receiveOpen && run.received then s'.takeRun (run.collect bits) else s')

/-! ### The gap and the drive -/

/-- GAP_END: the quiet count reaches 64, and an engine in DEFER begins its drive at that moment (R138, R139). -/
def execGapEnd (s : State) : Answer :=
  match s.line.quiet with
  | .counting since =>
    let s := s.advance (since + Config.gapBits)
    let s : State := { s with line := { s.line with quiet := .ended } }
    .next (if s.tx.engine.work = some .defer ∧ s.line.drive = .idle then s.startAttempt s.now else s)
  | _ => .next s

/-- ECHO_CHECK: at the end of the start byte the node checks that its receiver has seen carrier. On a failure it stops with
no jam, and the attempt is taken as a collision within the window; the third in a row raises LINE_FAULT after the queue has
dealt with the attempt (R144). -/
def execEchoCheck (heard : Bool) (s : State) : Answer :=
  match s.line.drive with
  | .driving _ since =>
    let s := s.advance (since + Config.startBits)
    if heard || s.line.run.isSome then .next { s with line := { s.line with echoFails := 0 } }
    else
      let fails := s.line.echoFails + 1
      let s : State := { s with line := { s.line with drive := .idle, echoFails := fails } }
      let s := s.attemptFailed
      .next (if Config.echoLimit ≤ fails then (s.report .lineFault (station := some s.cfg.station)).enterFault else s)
  | _ => .next s

/-- The byte position at this bit of a drive: the bytes completed after the start byte (R139, R141). -/
def bytePosition (bit : Nat) : Nat := (bit - Config.startBits) / 8

/-- Whether a collision at this bit is within the collision window: in the preamble, the start byte, or one of the first
`window` bytes after it (R141). -/
def withinWindow (window bit : Nat) : Bool := decide (bit < Config.startBits) || decide (bytePosition bit < window)

/-- What the node puts on the pair in the bit time that begins at `t`: a bit of its burst, a bit of its jam, or nothing (R137,
R140). -/
def Line.drivenAt (l : Line) (t : Nat) : Option Bool :=
  match l.drive with
  | .idle => none
  | .driving burst since => if since ≤ t then burst.onLine[t - since]? else none
  | .jamming ends _ => if ends ≤ t + Config.jamBits then jamPattern[t + Config.jamBits - ends]? else none

/-- COLLISION: the first bit that differs. The node stops driving its burst at that bit and jams for 32 bit times (R140). Whether
the collision is late is settled by its bit (R141); it is counted and reported once the jam has been driven. A collision before
the end of the start byte counts as a passed echo check (R144). -/
def execCollision (bit : Nat) (s : State) : Answer :=
  match s.line.drive with
  | .driving burst since =>
    if bit < burst.lineBits then
      let s := s.advance (since + bit + 1)
      .next { s with line := { s.line with
        drive := .jamming (s.now + Config.jamBits) (!withinWindow s.cfg.timing.window bit)
        echoFails := if bit < Config.startBits then 0 else s.line.echoFails } }
    else .next s
  | _ => .next s

/-- One more collision of this node (R140, R147). -/
def State.countCollision (s : State) : State :=
  { s with counters := { s.counters with collisions := satAdd Config.counterMax s.counters.collisions 1 } }

/-- JAM_END: the jam has been driven. The node releases the line, the collision is counted, and it is reported to the Transmit
Queue, which retries or drops the entry (R140, R141, R123, R124; log entry 10). -/
def execJamEnd (s : State) : Answer :=
  match s.line.drive with
  | .jamming ends late =>
    let s := s.advance ends
    let s : State := State.countCollision { s with line := s.line.released s.now }
    .next (if late then s.dropCurrent .late else s.attemptFailed)
  | _ => .next s

/-- BACKOFF_WAIT_END: the wait ends and the engine passes to DEFER (R143, R120, R139). -/
def execBackoffWaitEnd (s : State) : Answer :=
  match s.line.wait with
  | .running ends =>
    let s := s.advance ends
    .next (if s.tx.engine.work = some .backoff then s.enterDefer else s)
  | _ => .next s

/-- What the departure of a completed entry is reported as (R122). -/
def State.reportCompleted (s : State) (e : TxEntry) (groupEnds : Bool) : State :=
  match e.body with
  | .page .. => if groupEnds then s.groupOver true else s
  | .level .. =>
    if s.sender.refresh.isSome then { s with sender := { s.sender with refresh := some s.now } } else s
  | .trigger .. => s
  | .bye => { s with node := { s.node with leaveDue := true } }

/-- Whether the current entry's group ends with it: a page with later pages ends it only where those have been discarded
(R122, R129). -/
def Tx.groupEnds (tx : Tx) : Bool :=
  match tx.entries with
  | e :: next :: _ => !(e.hasLaterPages && next.laterPage)
  | _ => true

/-- ATTEMPT_COMPLETES: the burst has been driven to its end. The line is released, the entry leaves, the engine moves on, the
own copy is offered to the Receive FIFO with the burst's end instant, and the departure is reported (R122, R140, R146). -/
def execAttemptCompletes (s : State) : Answer :=
  match s.line.drive, s.tx.entries with
  | .driving burst since, e :: _ =>
    let s := s.advance (since + burst.lineBits)
    let groupEnds := s.tx.groupEnds
    let s : State := { s with line := s.line.released s.now, tx := s.tx.pop }
    let s := s.settleWaiting.nextEntry groupEnds
    let s := s.offerBurst { burst, endInstant := s.now, own := true }
    .next (s.reportCompleted e groupEnds)
  | _, _ => .next s

/-! ### Stale deadlines -/

/-- STALE_DEADLINE: the deadline of a TRIGGER entry passes. It is dropped at once unless it is the current entry of an engine in
DRIVING, or the engine is STOPPED (R125). In SUSPENDING the current entry is dropped while it is being driven too, and its attempt
is then cut at that bit: R125 does not say what the line sees (DESIGN CHOICE; log entry 33). -/
def execStaleDeadline (index : Nat) (s : State) : Answer :=
  match s.tx.entries[index]? with
  | some { body := .trigger item _ deadline, .. } =>
    if s.inReset ∨ s.tx.engine = .stopped then .next s
    else
      let s := s.advance deadline
      let s := if index = 0 ∧ s.tx.engine = .suspending .driving then s.cutDrive else s
      .next (if index = 0 ∧ s.tx.engine = .working .driving then s else s.dropStale index item)
  | _ => .next s

end Sys2Proof.Machine
end

