-- ==== Sys2Proof/Machine/Peers.lean ====
section
/-! DEFINITION. The Burst Applier and the Peer Table (chapter 6): the header steps, announce assembly, returns, losses,
forgetting and leaving, and the application of LEVEL and TRIGGER bursts (R8, R9, R29). -/

namespace Sys2Proof.Machine

/-! ### Header steps (R96, R108) -/

/-- A LEVEL or a TRIGGER returns a LOST peer (R108). -/
def Payload.returns : Payload → Bool
  | .level _ | .trigger _ => true
  | _ => false

def Payload.isLevel : Payload → Bool
  | .level _ => true
  | _ => false

/-- PRESENT or HOLDING by a hold flag (R96, R108). -/
def linkOfHold (hold : Bool) : Link := if hold then .holding else .present

/-- The time a peer was LOST in whole milliseconds, held at 32767 (R108). -/
def lostMs (lostAt now : Nat) : Nat := min 32767 ((now - lostAt) / Config.bitsPerMs)

/-- Step 2 of R96: the return of a LOST peer (R108). -/
def State.settleReturn (s : State) (b : Burst) : State :=
  let p := s.peerAt b.source
  if p.link = .lost ∧ b.payload.returns then
    let value := lostMs (p.forget.getD s.now) s.now
    let s := s.mapPeer b.source fun p =>
      { p with link := linkOfHold b.hold, forget := none, silence := some s.now, expected := none }
    s.report .peerReturned (station := some b.source) (value := some value)
  else s

/-- Bursts missed: (seq − expected) mod 256 (R96). -/
def seqGap (seq expected : Nat) : Nat := (seq + 256 - expected) % 256

/-- Steps 3 to 6 of R96 on the record as step 2 left it. -/
def PeerRecord.header (b : Burst) (now : Nat) (p : PeerRecord) : PeerRecord :=
  let gaps := match p.expected with
    | some e => if p.link = .absent then p.gaps else satAdd Config.counterMax p.gaps (seqGap b.seq e)
    | none => p.gaps
  if p.link.heard then
    { p with
      gaps
      expected := some ((b.seq + 1) % 256)
      silence := some now
      link := if b.payload.isLevel then linkOfHold b.hold else p.link }
  else { p with gaps }

/-- The header steps of a peer's burst, before its contents act (R96). -/
def State.headerSteps (s : State) (b : Burst) : State :=
  let s := s.mapPeer b.source fun p => { p with lastRequest := some b.request }
  let s := s.settleReturn b
  s.mapPeer b.source (PeerRecord.header b s.now)

/-! ### Announce groups (R98 to R103) -/

/-- The declared set of a group: a channel declared more than once takes the rank of its last appearance, and a rank above 7
is taken as 7; in ascending channel order (R100). -/
def declaredSet (decls : List Declaration) : List Declaration :=
  (List.range 16).filterMap fun c => (rankIn decls.reverse c).map fun r => (c, min r 7)

/-- The RANK_CONFLICT records of a completing peer: its declarations ascending, the other stations ascending (R102). -/
def State.reportConflicts (s : State) (x : Nat) (decls : List Declaration) : State :=
  let hits := decls.flatMap fun d =>
    (stations.filter fun st => st ≠ x && (s.peerAt st).link ≠ .absent && (s.peerAt st).declared.contains d).map
      fun st => (st, d)
  hits.foldl (fun s h => s.report .rankConflict (station := some x) (second := some h.1) (channel := some h.2.1)
    (value := some h.2.2)) s

/-- The record of a peer whose group has completed (R100, R101). -/
def PeerRecord.completed (role : Option Role) (decls : List Declaration) (now : Nat) (p : PeerRecord) : PeerRecord :=
  { p with
    link := .present, role, declared := decls, silence := some now, forget := none, expected := none
    assembly := none }

/-- The completion of an assembly: a new peer if ABSENT, a rejoin otherwise (R100, R101, R102, R103). -/
def State.completeGroup (s : State) (x : Nat) (a : Assembly) : State :=
  let isNew := (s.peerAt x).link == .absent
  let decls := declaredSet a.decls
  let role := Role.ofCode a.role
  let s : State := { s.mapPeer x (PeerRecord.completed role decls s.now) with sources := redeclare x decls s.sources }
  let s := s.report .peerJoined (station := some x) (detail := some (if isNew then 0 else 1)) (value := some (roleCode role))
  let s := s.reportConflicts x decls
  if a.known.getLsbD s.cfg.station then s else s.requestAnnounce

/-- The peer's assembly becomes `a`, which completes if all its pages are in (R98, R99). -/
def State.takeAssembly (s : State) (x : Nat) (a : Assembly) : State :=
  if a.next = a.expected then s.completeGroup x a
  else s.mapPeer x fun p => { p with assembly := some a }

/-- A continuation page that no assembly expects is dropped with BAD_BURST, and the assembly with it (R99). -/
def State.dropPage (s : State) (x : Nat) : State :=
  (s.mapPeer x fun p => { p with assembly := none }).reportBad .format (some x) none

/-- A continuation page (R99). -/
def State.applyPage (s : State) (x index count : Nat) (decls : List Declaration) : State :=
  match (s.peerAt x).assembly with
  | some a =>
    if index = a.next ∧ count = a.expected then
      s.takeAssembly x { a with decls := a.decls ++ decls, next := a.next + 1 }
    else s.dropPage x
  | none => s.dropPage x

/-! ### Departures (R7, R41, R107, R109, R110) -/

/-- A peer's declared set is discarded: its entries by R7, its LOOP players by R41. -/
def State.discardDeclared (s : State) (x : Nat) : State :=
  State.orphanPlayers { s with sources := redeclare x [] s.sources } x

/-- A BYE from a peer that is not ABSENT (R110). -/
def State.applyBye (s : State) (x : Nat) : State :=
  if (s.peerAt x).link = .absent then s
  else
    let s := s.mapPeer x fun p =>
      { p with link := .absent, role := none, declared := [], silence := none, forget := none, expected := none,
               assembly := none }
    (s.discardDeclared x).report .peerLeft (station := some x)

/-! ### Contents of LEVEL and TRIGGER (R8, R9, R29, R103, R134) -/

/-- The undeclared count takes one more (R8, R103). -/
def State.countUndeclared (s : State) (x : Nat) : State :=
  s.mapPeer x fun p => { p with undeclared := satAdd Config.counterMax p.undeclared 1 }

/-- A LEVEL or a TRIGGER of an ABSENT peer: it is counted and calls for a re-announce (R103). -/
def State.applyUnannounced (s : State) (x : Nat) : State := (s.countUndeclared x).requestAnnounce

/-- One carried pair of a peer's LEVEL (R8). -/
def State.applyPair (x : Nat) (s : State) (pair : Nat × Int) : State :=
  if (rankIn (s.peerAt x).declared pair.1).isSome then
    { s with sources := setValid x pair.1 pair.2 s.merge.periodCount s.sources }
  else s.countUndeclared x

/-- The last-sent values after an own LEVEL: each carried channel takes the carried value (R134). -/
def sentPairs (pairs : List (Nat × Int)) (lastSent : List (Option Int)) : List (Option Int) :=
  pairs.foldl (fun l p => l.set p.1 (some (takeCue p.2))) lastSent

/-- This node's own LEVEL, back through the Receive FIFO: the own entries of produced channels, and the Level Sender's
record of what was last sent (R9, R134). -/
def State.applyOwnLevel (s : State) (request : Mode) (pairs : List (Nat × Int)) : State :=
  let sources := pairs.foldl (fun t p =>
    if (s.channel p.1).produce then setValid s.cfg.station p.1 p.2 s.merge.periodCount t else t) s.sources
  { s with
    sources
    sender := { s.sender with lastSent := sentPairs pairs s.sender.lastSent, lastRequest := some request } }

/-- The contents of this node's own completed burst (R95): pages and BYE have no effect here. -/
def State.applyOwn (s : State) (e : FifoEntry) : State :=
  match e.burst.payload with
  | .level pairs => s.applyOwnLevel e.burst.request pairs
  | .trigger items => applyItems s.cfg.station e.endInstant items s
  | .page0 .. | .page .. | .bye => s

/-- The contents of a peer's burst, after its header steps. -/
def State.applyContents (s : State) (e : FifoEntry) : State :=
  let x := e.burst.source
  match e.burst.payload with
  | .page0 count role known decls =>
    s.takeAssembly x { expected := count, next := 1, role, decls, known, startedAt := s.now }
  | .page index count decls => s.applyPage x index count decls
  | .level pairs =>
    if (s.peerAt x).link = .absent then s.applyUnannounced x else pairs.foldl (State.applyPair x) s
  | .trigger items =>
    if (s.peerAt x).link = .absent then (dropItems x items s).applyUnannounced x
    else applyItems x e.endInstant items s
  | .bye => s.applyBye x

/-- A duplicate-station burst: it is reported and the node enters FAULT; a node already in FAULT takes no notice (R95,
R114). -/
def State.applyDuplicate (s : State) (b : Burst) : State :=
  if s.node.state = .fault then s
  else
    (s.report .duplicateStation (station := some s.cfg.station) (detail := some b.payload.kind)
      (value := some b.seq)).enterFault

/-- One burst applied whole, by its source (R95); the vote is evaluated once at its end (R69). -/
def State.applyEntry (s : State) (e : FifoEntry) : State :=
  let s :=
    if e.burst.source = 0 then s.reportBad .format (some 0) none
    else if e.own then s.applyOwn e
    else if e.burst.source = s.cfg.station then s.applyDuplicate e.burst
    else (s.headerSteps e.burst).applyContents e
  s.revote

/-- The Burst Applier takes the oldest burst (R146). -/
def State.applyOldest (s : State) : State :=
  match s.fifo with
  | [] => s
  | e :: rest => State.applyEntry { s with fifo := rest } e

/-! ### Losses and forgetting (R107, R109) -/

/-- The instant at which a peer's silence timer that started then expires (R94, R107). -/
def State.silenceDue (s : State) (started : Nat) : Nat := started + ms s.cfg.timing.silence

/-- The instant at which a LOST peer's forget timer that started then expires (R94, R109). -/
def State.forgetDue (s : State) (started : Nat) : Nat := started + ms s.cfg.timing.forget

/-- A peer's silence timer has expired (R107, R10, R40). No loss takes place where a burst applied first has restarted or
stopped the timer. -/
def State.losePeer (s : State) (x : Nat) : State :=
  match (s.peerAt x).silence with
  | some started =>
    if s.now < s.silenceDue started then s
    else
      let losses := satAdd 255 (s.peerAt x).losses 1
      let s := s.mapPeer x fun p => { p with link := .lost, losses, silence := none, forget := some s.now }
      let s := s.report .peerLost (station := some x) (value := some losses)
      let s : State := { s with sources := fadeStation x s.sources }
      (s.orphanPlayers x).revote
  | none => s

/-- A LOST peer's forget timer has expired (R109, R7, R41). The peer is not forgotten where a burst applied first has stopped
the timer. -/
def State.forgetPeer (s : State) (x : Nat) : State :=
  match (s.peerAt x).forget with
  | some started =>
    if s.now < s.forgetDue started then s
    else
      let s := s.mapPeer x fun p =>
        { p with link := .absent, role := none, declared := [], expected := none, forget := none }
      let s := (s.discardDeclared x).report .peerForgotten (station := some x)
      s.revote
  | none => s

/-- An assembly has not completed within the silence limit: it is discarded, without an event (R99). -/
def execAssemblyTimeLimit (station : Nat) (s : State) : Answer :=
  match (s.peerAt station).assembly with
  | some a =>
    let due := s.advance (a.startedAt + ms s.cfg.timing.silence)
    .next (s.unlessReset (due.mapPeer station fun p => { p with assembly := none }))
  | none => .next s

/-! ### Changes held while a pass is in progress (R11, R49) -/

/-- SILENCE_TIMER_EXPIRY (R107, R11). -/
def execSilenceTimerExpiry (station : Nat) (s : State) : Answer :=
  match (s.peerAt station).silence with
  | some started =>
    let due := s.advance (s.silenceDue started)
    .next (s.unlessReset (due.orHold (.silence station) (due.losePeer station)))
  | none => .next s

/-- FORGET_TIMER_EXPIRY (R109, R11). -/
def execForgetTimerExpiry (station : Nat) (s : State) : Answer :=
  match (s.peerAt station).forget with
  | some started =>
    let due := s.advance (s.forgetDue started)
    .next (s.unlessReset (due.orHold (.forget station) (due.forgetPeer station)))
  | none => .next s

/-- APPLY_BURST (R95, R146, R11). -/
def execApplyBurst (s : State) : Answer :=
  .next (s.unlessReset (s.orHold .applyBurst s.applyOldest))

/-- A held change is made as the pass ends (R11). -/
def State.makeHeld (s : State) : HeldChange → State
  | .silence station => s.losePeer station
  | .forget station => s.forgetPeer station
  | .applyBurst => s.applyOldest
  | .leaveCompletion => if s.node.leaveDue ∧ s.node.state = .leaving then s.completeLeave else s
  | .ownEntries => s.createOwnEntries

end Sys2Proof.Machine
end

