-- ==== Sys2Proof/Machine/Pass.lean ====
section
/-! DEFINITION. The merge pass (section 3.2): its eight stages, the Excursion Monitor's hand-over (chapter 5), and the changes
held until it ends. -/

namespace Sys2Proof.Machine

/-! ### Stages 1 to 7 -/

/-- The expiry itself: the count increments, the new period begins at the expiry, and the level interval timer counts it
(R47, R132). -/
def State.countExpiry (s : State) : State :=
  let s := s.advance s.merge.periodDue
  { s with
    merge := { s.merge with
      periodCount := s.merge.periodCount + 1
      periodDue := s.now + Config.periodBits s.cfg.timing.periodCode }
    sender := { s.sender with levelTimer := s.sender.levelTimer.map (· + 1) } }

/-- Stages 1 to 3 at an expiry instant: the fade, the sustained values, the players, and the channel values kept with their
count and ages (R12, R14, R34 to R38, R18 to R20). -/
def State.mergeChannels (s : State) (expiry : Nat) : State :=
  let sources := fadeTable s.cfg.channels s.sources
  let players := startPlayers expiry s.players
  let values := channelNumbers.map fun c =>
    saturate (sustained s.cfg.channels sources c + contributions s.store players c)
  { s with
    sources
    players := stepPlayers s.store players
    merge := { s.merge with lastChannels := {
      count := s.merge.periodCount
      values
      ages := channelNumbers.map (channelAge sources s.merge.periodCount) } } }

/-- What axis `a` makes of the channel values just formed, with this factor (R51 to R54). -/
def State.axisResult (s : State) (factor a : Nat) : AxisResult :=
  (s.cfg.axes.getD a {}).compute s.merge.lastChannels.values factor (s.merge.limited.getD a 0)

/-- Stages 4 to 7: the axes, their limited values and their flags; the pass is now in progress, with what it keeps until its
hand-overs (R51 to R54). -/
def State.computeAxes (s : State) (order : HandOverOrder) : State :=
  let results := axisNumbers.map (s.axisResult s.output.factor)
  { s with
    merge := { s.merge with
      limited := results.map (·.limited)
      pass := some {
        order, stage := s.output.stage, factor := s.output.factor
        demands := results.map (·.demand), pres := results.map (·.pre), outputs := results.map (·.output) } }
    monitor := { s.monitor with axes := axisNumbers.map fun a =>
      (s.monitor.axes.getD a {}).settle (s.cfg.axes.getD a {}) (s.axisResult s.output.factor a) } }

/-- A pass begins at the expiry of the output period and runs through stages 1 to 7 (R48). -/
def State.beginPass (s : State) (order : HandOverOrder) : State :=
  (s.countExpiry.mergeChannels s.countExpiry.now).computeAxes order

/-! ### Stage 8 -/

/-- The frame assembled at the end of a pass: node state, mode and trip latch as they are held now, stage and factor as they
were when the pass began (R55). -/
def State.assembleFrame (s : State) (p : Pass) : Frame :=
  { number := s.merge.periodCount
    nodeState := s.node.state
    mode := s.output.effective
    stage := p.stage
    factor := p.factor
    outputs := p.outputs
    clips := s.monitor.axes.map (·.clip)
    warns := s.monitor.axes.map (·.warn)
    trip := s.monitor.trip }

/-- The frame is published whole, and STROBE gives one pulse (R55). -/
def State.publish (s : State) (p : Pass) : State :=
  { s with merge := { s.merge with frame := s.assembleFrame p }, strobes := s.strobes + 1 }

/-- One record for each of these axes, in ascending order, with the axis's value (R83, R84, R86). -/
def State.reportAxes (s : State) (kind : EventKind) (values : List Int) (which : List Nat) : State :=
  which.foldl (fun s a => s.report kind (channel := some a) (value := some (values.getD a 0))) s

/-- The axes whose warn flag has newly set (R83). -/
def Monitor.newWarns (m : Monitor) : List Nat :=
  axisNumbers.filter fun a => (m.axes.getD a {}).warn && !(m.axes.getD a {}).prevWarn

/-- The axes whose clip flag has newly set (R84). -/
def Monitor.newClips (m : Monitor) : List Nat :=
  axisNumbers.filter fun a => (m.axes.getD a {}).clip && !(m.axes.getD a {}).prevClip

/-- An axis's monitor after the hard count of a pass (R85). -/
def State.countedAxis (s : State) (p : Pass) (a : Nat) : AxisMonitor :=
  (s.monitor.axes.getD a {}).count p.stage (s.cfg.axes.getD a {}) (p.demands.getD a 0)

/-- The axes whose hard count becomes equal to its setting in this pass (R86). -/
def State.hardTrips (s : State) (p : Pass) : List Nat :=
  axisNumbers.filter fun a =>
    hardTripped (s.cfg.axes.getD a {}).hardCount (s.monitor.axes.getD a {}).hardCount (s.countedAxis p a).hardCount

/-- The trip latch sets, and what follows from it: the own request becomes PARK, and the vote is evaluated (R88). -/
def State.setTrip (s : State) : State := State.revote { s with monitor := { s.monitor with trip := true } }

/-- The Excursion Monitor's hand-over: WARN, then CLIP, then the hard counts, HARD_TRIP and the latch (R83 to R86, R91). -/
def State.monitorPass (s : State) (p : Pass) : State :=
  let trips := s.hardTrips p
  let counted := axisNumbers.map (s.countedAxis p)
  let s := s.reportAxes .warn p.outputs s.monitor.newWarns
  let s := s.reportAxes .clip p.pres s.monitor.newClips
  let s : State := { s with monitor := { s.monitor with axes := counted } }
  if s.monitor.trip || trips.isEmpty then s
  else (s.reportAxes .hardTrip p.demands trips).setTrip

/-- The two hand-overs in the order of the pass (R56). -/
def State.handOver (s : State) (p : Pass) : State :=
  match p.order with
  | .stepFirst => s.stepFactor.monitorPass p
  | .monitorFirst => (s.monitorPass p).stepFactor

/-- A pass in progress ends: publication, the hand-overs, and then the changes held during it, in the order they arrived
(R48, R55, R56, R11). With no pass in progress nothing happens. Publication and the hand-overs read no held change, so the pass and
what it held are taken out first. -/
def State.finishPass (s : State) : State :=
  match s.merge.pass with
  | none => s
  | some p =>
    let taken : State := { s with merge := { s.merge with pass := none, held := [] } }
    s.merge.held.foldl State.makeHeld ((taken.publish p).handOver p)

/-- OUTPUT_PERIOD_EXPIRY: a merge pass (R47, R48). A pass still in progress ends first, since two passes never overlap. One
that is not `whole` is left in progress before its publish stage (R49; log entry 1). -/
def execOutputPeriodExpiry (order : HandOverOrder) (whole : Bool) (s : State) : Answer :=
  let begun := s.finishPass.beginPass order
  .next (s.unlessReset (if whole then begun.finishPass else begun))

end Sys2Proof.Machine
end

