-- ==== Sys2Proof/Machine/LocalPort.lean ====
section
/-! DEFINITION. The Local Port (chapter 10): the end of a transaction, the configuration commands, ASK MODE and the reads. -/

namespace Sys2Proof.Machine

/-! ### Transactions -/

/-- The bytes of an event record in TAKE EVENTS (R165, R166). -/
def Record.bytes (r : Record) : List Byte :=
  byte r.kind.code :: bytes32 r.count.toNat ++
    [byteOrAbsent r.station, byteOrAbsent r.second, byteOrAbsent r.channel, byteOrAbsent r.detail,
      boolByte r.value.isSome] ++ signedBytes (r.value.getD 0)

/-- How many of `offered` records were clocked out in full within these response bytes: the result byte, the count byte, then
12 bytes a record (R162, R165). -/
def recordsTaken (offered clocked : Nat) : Nat := min offered ((clocked - 2) / 12)

/-- The rise of SEL_N: the records fully clocked out leave the queue, READY falls if a blocking operation is running, and the
decoder waits for the next command (R155, R157, R162). -/
def State.closeTransaction (s : State) (clocked : Nat) : State :=
  { s with
    events := { s.events with queue := s.events.queue.drop (recordsTaken s.port.offered clocked) }
    port := { s.port with
      decoder := .waiting, response := [], offered := 0
      ready := s.port.ready && decide (s.port.blocking = .none) } }

/-- TRANSACTION_END. A transaction whose command was not taken is discarded with no effect (R155), and so is one that has stood
while RST_N was low (R164). -/
def execTransactionEnd (clocked : Nat) (s : State) : Answer :=
  .next (if s.inReset = false ∧ s.port.decoder = .givingResponse then s.closeTransaction clocked
    else { s with port := { s.port with decoder := .waiting } })

/-- The byte SDO carries while the byte `k` places after the end of the command is clocked: the response from its first byte on,
and 0 while the command and the parameters are clocked in, after the last response byte, and while RST_N is held low (R155,
R164). -/
def State.sdo (s : State) (k : Nat) : Byte :=
  match s.inReset, s.port.decoder with
  | false, .givingResponse => s.port.response.getD k 0
  | _, _ => 0

/-- The bits SDO carries in that byte, most significant bit first (R155). -/
def State.sdoBits (s : State) (k : Nat) : List Bool := byteBits (s.sdo k)

/-- UNKNOWN_COMMAND: taken with no parameters and answered PARAM (R155); BUSY comes first (R156). -/
def execUnknownCommand (_code : Byte) (s : State) : Answer := .next (s.command (s.answer .param))

/-! ### Configuration commands -/

/-- The records with the SELF marker on the row of this station and on no other; the row that becomes SELF has its counters
at 0 (R158, R92). -/
def State.markSelf (s : State) (station : Nat) : List PeerRecord :=
  stations.map fun st =>
    let p := s.peerAt st
    if st = station then { p with self := true, gaps := 0, losses := 0, undeclared := 0 } else { p with self := false }

/-- SET STATION (R158). -/
def execSetStation (station role : Byte) (seed : Word16) (s : State) : Answer :=
  let n := station.toNat
  .next (s.configCommand
    (if 15 < n ∨ (n ≠ 0 ∧ Role.ofCode role.toNat = none) then s.answer .param
    else
      let role := if n = 0 then none else Role.ofCode role.toNat
      State.answer { s with cfg := { s.cfg with station := n, role, seed }, peers := s.markSelf n } .ok))

/-- The timing settings, each brought into its range and the limits into their ratios (R47, R94, R135, R141). -/
def timingOf (period levelInterval holdAfter refresh : Byte) (silence forget : Word16)
    (stale window persist : Byte) : Timing :=
  let refreshMs := clamp 5 250 refresh.toNat
  let silenceMs := max (clamp 10 1000 silence.toNat) (2 * refreshMs)
  { periodCode := min period.toNat 3
    levelInterval := clamp 1 16 levelInterval.toNat
    holdAfter := max 1 holdAfter.toNat
    refresh := refreshMs
    silence := silenceMs
    forget := max (clamp 100 10000 forget.toNat) (2 * silenceMs)
    stale := clamp 1 100 stale.toNat
    window := clamp 4 16 window.toNat
    persist := decide (persist ≠ 0) }

/-- SET TIMING: always OK in CONFIG (R158, R135). -/
def execSetTiming (period levelInterval holdAfter refresh : Byte) (silence forget : Word16)
    (stale window persist : Byte) (s : State) : Answer :=
  .next (s.configCommand (State.answer { s with cfg := { s.cfg with
    timing := timingOf period levelInterval holdAfter refresh silence forget stale window persist } } .ok))

/-- DEFINE CHANNEL (R13). -/
def execDefineChannel (channel policy produce rank : Byte) (deadband fadeStep : Word16) (s : State) : Answer :=
  .next (s.configCommand
    (match Policy.ofCode policy.toNat with
    | some p =>
      if 15 < channel.toNat then s.answer .param
      else
        let record : Channel := {
          policy := p
          produce := decide (produce ≠ 0)
          rank := min 7 rank.toNat
          deadband := min 4095 deadband.toNat
          fadeStep := clamp 1 32767 fadeStep.toNat }
        State.answer { s with cfg := { s.cfg with channels := s.cfg.channels.set channel.toNat record } } .ok
    | none => s.answer .param))

/-- A tap from its slot (R50). -/
def TapSlot.tap (t : TapSlot) : Tap := { channel := t.channel.toNat, gain := t.gain.toInt }

/-- DEFINE AXIS: the record is replaced, and the axis's four flags and hard count are cleared (R50, R80, R81). -/
def execDefineAxis (axis tapCount : Byte) (slot0 slot1 slot2 slot3 : TapSlot)
    (slew clip warn hysteresis hardLimit : Word16) (hardCount : Byte) (s : State) : Answer :=
  let used := [slot0, slot1, slot2, slot3].take tapCount.toNat
  .next (s.configCommand
    (if 7 < axis.toNat ∨ 4 < tapCount.toNat ∨ used.any (fun t => 15 < t.channel.toNat) then s.answer .param
    else
      let record : Axis := {
        taps := used.map TapSlot.tap
        slew := clamp 1 65534 slew.toNat
        clip := clamp 1 32767 clip.toNat
        warn := min 32767 warn.toNat
        hysteresis := min 4095 hysteresis.toNat
        hardLimit := clamp 1 32767 hardLimit.toNat
        hardCount := max 1 hardCount.toNat }
      State.answer { s with
        cfg := { s.cfg with axes := s.cfg.axes.set axis.toNat record }
        monitor := { s.monitor with axes := s.monitor.axes.set axis.toNat {} } } .ok))

/-- STORE PROFILE: the checks of R25 in their order; when they pass, the write begins and the operation is blocking (R25,
R157). One whose samples are not all in is not yet taken (R155; log entry 8). -/
def execStoreProfile (profile stretch endMode : Byte) (length : Word16) (samples : List Word16) (s : State) : Answer :=
  let n := if 1 ≤ length.toNat ∧ length.toNat ≤ 256 then length.toNat else 0
  let write := fun mode : EndMode =>
    if s.store.profile profile.toNat ≠ none then s.answer .param
    else if Config.storeSamples < s.store.nextFree + n then s.answer .full
    else State.answer { s with
      store := { s.store with writing := some {
        number := profile.toNat, stretch := clamp 1 16 stretch.toNat, endMode := mode
        samples := (samples.take n).map cueOf } }
      port := { s.port with blocking := .storeProfile } } .ok
  .next (s.onPort
    (if samples.length < n then { s with port := { s.port with decoder := .takingParameters } }
    else s.configCommand
      (if 15 < profile.toNat ∨ n = 0 then s.answer .param
      else match EndMode.ofCode endMode.toNat with
        | none => s.answer .param
        | some mode => write mode)))

/-- The store after the samples of a profile are written at the next free position (R24, R25). -/
def Store.written (st : Store) (w : ProfileWrite) : Store :=
  { samples := st.samples.take st.nextFree ++ w.samples ++ st.samples.drop (st.nextFree + w.samples.length)
    profiles := st.profiles.set w.number (some {
      start := st.nextFree, length := w.samples.length, stretch := w.stretch, endMode := w.endMode })
    nextFree := st.nextFree + w.samples.length
    writing := none }

/-- PROFILE_WRITE_COMPLETE: the last sample is written, the profile becomes defined, and READY rises (R25, R157). -/
def execProfileWriteComplete (s : State) : Answer :=
  match s.store.writing with
  | some w => .next (s.unlessReset (State.endBlocking { s with store := s.store.written w }))
  | none => .next s

/-- CLEAR PROFILES (R26). -/
def execClearProfiles (s : State) : Answer :=
  .next (s.configCommand (State.answer { s with store := { s.store with
    profiles := List.replicate 16 none, nextFree := 0 } } .ok))

/-- SET STAGE (R77). -/
def execSetStage (ease park rise : Word16) (roles : Byte) (s : State) : Answer :=
  .next (s.configCommand (State.answer { s with cfg := { s.cfg with
    easeStep := clamp 1 4096 ease.toNat
    parkStep := clamp 1 4096 park.toNat
    riseStep := clamp 1 4096 rise.toNat
    required := allRoles.filter fun r => roles.getLsbD r.code } } .ok))

/-- The routes with one class's route replaced (R171). -/
def Routes.put (r : Routes) (route : Route) : EventClass → Routes
  | .peer => { r with peer := route }
  | .mode => { r with mode := route }
  | .cue => { r with cue := route }
  | .line => { r with line := route }
  | .limit => { r with limit := route }

/-- ROUTE ALERTS (R158, R171). -/
def execRouteAlerts (cls route : Byte) (s : State) : Answer :=
  .next (s.configCommand
    (match EventClass.ofCode cls.toNat, Route.ofCode route.toNat with
    | some c, some r => State.answer { s with events := { s.events with routes := s.events.routes.put r c } } .ok
    | _, _ => s.answer .param))

/-! ### ASK MODE -/

/-- ASK MODE: taken in every node state (R62). -/
def execAskMode (t : Nat) (mode : Byte) (s : State) : Answer :=
  let s := s.advance t
  .next (s.command
    (match Mode.ofCode mode.toNat with
    | some m => (State.revote { s with output := { s.output with localRequest := m } }).answer .ok
    | none => s.answer .param))

/-! ### Reads (R162, R165) -/

/-- The data of STATUS, 20 bytes (R162, R165). -/
def State.statusData (s : State) : List Byte :=
  [byte s.node.state.code, boolByte s.node.quiet, byte s.tx.engine.code, byte s.output.effective.code,
    byte s.output.stage.code] ++ bytes16 s.output.factor ++
  [boolByte s.monitor.trip, byte s.events.queue.length, byte s.events.dropped] ++
  bytes16 s.counters.collisions ++ bytes16 s.counters.fragments ++ bytes16 s.counters.badBursts ++
  bytes16 s.counters.rxOverruns ++ bytes16 s.counters.txDropped

/-- STATUS: served in every node state, even while READY is low (R157, R162). -/
def execStatus (s : State) : Answer := .next (s.onPort (s.answer .ok s.statusData))

/-- The data of TAKE OUTPUT, 28 bytes (R57, R165). -/
def Frame.data (f : Frame) : List Byte :=
  bytes32 f.number.toNat ++ [byte f.nodeState.code, byte f.mode.code, byte f.stage.code] ++ bytes16 f.factor ++
  f.outputs.flatMap signedBytes ++ [flagsByte f.clips, flagsByte f.warns, boolByte f.trip]

/-- TAKE OUTPUT (R57). -/
def execTakeOutput (s : State) : Answer := .next (s.command (s.answer .ok s.merge.frame.data))

/-- The data of TAKE CHANNELS, 68 bytes (R21, R165). -/
def LastChannels.data (l : LastChannels) : List Byte :=
  bytes32 l.count.toNat ++ l.values.flatMap signedBytes ++ l.ages.flatMap bytes16

/-- TAKE CHANNELS (R21). -/
def execTakeChannels (s : State) : Answer := .next (s.command (s.answer .ok s.merge.lastChannels.data))

/-- The data of PEER (R115, R165). -/
def PeerRecord.data (p : PeerRecord) : List Byte :=
  [boolByte p.self, byte p.link.code, byte (roleCode p.role), byteOrAbsent (p.lastRequest.map Mode.code)] ++
  bytes16 (p.expected.getD 0xFFFF) ++ bytes16 p.gaps ++ [byte p.losses] ++ bytes16 p.undeclared ++
  byte p.declared.length :: p.declared.flatMap fun d => [byte d.1, byte d.2]

/-- PEER: a station of 0 or above 15 is answered PARAM (R162, R115). -/
def execPeer (station : Byte) (s : State) : Answer :=
  .next (s.command
    (if station.toNat = 0 ∨ 15 < station.toNat then s.answer .param
    else s.answer .ok (s.peerAt station.toNat).data))

/-- TAKE EVENTS: up to four of the oldest records, or EMPTY; the records leave at the rise of SEL_N (R162, R169). -/
def execTakeEvents (s : State) : Answer :=
  .next (s.command
    (if s.events.queue = [] then s.answer .empty
    else
      let k := min 4 s.events.queue.length
      let a := s.answer .ok (byte k :: (s.events.queue.take k).flatMap Record.bytes)
      { a with port := { a.port with offered := k } }))

end Sys2Proof.Machine
end

