-- ==== Sys2Proof/Machine/Dispatch.lean ====
section
/-! DEFINITION. The effect of each command: one arm per row of spec/opcode_table.json. -/

namespace Sys2Proof.Machine

def exec (i : Instr) (s : State) : Host.Outcome State Fault Refusal :=
  match i with
  | .powerOnReset t => Sys2Proof.Machine.execPowerOnReset t s
  | .haltNChange t low => Sys2Proof.Machine.execHaltNChange t low s
  | .unknownCommand code => Sys2Proof.Machine.execUnknownCommand code s
  | .transactionEnd clocked => Sys2Proof.Machine.execTransactionEnd clocked s
  | .setStation station role seed => Sys2Proof.Machine.execSetStation station role seed s
  | .setTiming period levelInterval holdAfter refresh silence forget stale window persist => Sys2Proof.Machine.execSetTiming period levelInterval holdAfter refresh silence forget stale window persist s
  | .defineChannel channel policy produce rank deadband fadeStep => Sys2Proof.Machine.execDefineChannel channel policy produce rank deadband fadeStep s
  | .defineAxis axis tapCount slot0 slot1 slot2 slot3 slew clip warn hysteresis hardLimit hardCount => Sys2Proof.Machine.execDefineAxis axis tapCount slot0 slot1 slot2 slot3 slew clip warn hysteresis hardLimit hardCount s
  | .storeProfile profile stretch endMode length samples => Sys2Proof.Machine.execStoreProfile profile stretch endMode length samples s
  | .profileWriteComplete => Sys2Proof.Machine.execProfileWriteComplete s
  | .clearProfiles => Sys2Proof.Machine.execClearProfiles s
  | .setStage ease park rise roles => Sys2Proof.Machine.execSetStage ease park rise roles s
  | .routeAlerts cls route => Sys2Proof.Machine.execRouteAlerts cls route s
  | .join t => Sys2Proof.Machine.execJoin t s
  | .leave t => Sys2Proof.Machine.execLeave t s
  | .restart t => Sys2Proof.Machine.execRestart t s
  | .quiet => Sys2Proof.Machine.execQuiet s
  | .speak t => Sys2Proof.Machine.execSpeak t s
  | .post count pairs => Sys2Proof.Machine.execPost count pairs s
  | .fire t channel event profile amplitude priority lead => Sys2Proof.Machine.execFire t channel event profile amplitude priority lead s
  | .cancel t event => Sys2Proof.Machine.execCancel t event s
  | .askMode t mode => Sys2Proof.Machine.execAskMode t mode s
  | .status => Sys2Proof.Machine.execStatus s
  | .takeOutput => Sys2Proof.Machine.execTakeOutput s
  | .takeChannels => Sys2Proof.Machine.execTakeChannels s
  | .peer station => Sys2Proof.Machine.execPeer station s
  | .takeEvents => Sys2Proof.Machine.execTakeEvents s
  | .outputPeriodExpiry order whole => Sys2Proof.Machine.execOutputPeriodExpiry order whole s
  | .silenceTimerExpiry station => Sys2Proof.Machine.execSilenceTimerExpiry station s
  | .forgetTimerExpiry station => Sys2Proof.Machine.execForgetTimerExpiry station s
  | .assemblyTimeLimit station => Sys2Proof.Machine.execAssemblyTimeLimit station s
  | .announceHoldOffExpiry => Sys2Proof.Machine.execAnnounceHoldOffExpiry s
  | .joinWindowExpiry => Sys2Proof.Machine.execJoinWindowExpiry s
  | .levelIntervalExpiry => Sys2Proof.Machine.execLevelIntervalExpiry s
  | .refreshTimerExpiry => Sys2Proof.Machine.execRefreshTimerExpiry s
  | .staleDeadline index => Sys2Proof.Machine.execStaleDeadline index s
  | .carrierStart t => Sys2Proof.Machine.execCarrierStart t s
  | .gapEnd => Sys2Proof.Machine.execGapEnd s
  | .echoCheck heard => Sys2Proof.Machine.execEchoCheck heard s
  | .collision bit => Sys2Proof.Machine.execCollision bit s
  | .jamEnd => Sys2Proof.Machine.execJamEnd s
  | .backoffWaitEnd => Sys2Proof.Machine.execBackoffWaitEnd s
  | .attemptCompletes => Sys2Proof.Machine.execAttemptCompletes s
  | .leaveCompletion => Sys2Proof.Machine.execLeaveCompletion s
  | .runEnd t bits => Sys2Proof.Machine.execRunEnd t bits s
  | .applyBurst => Sys2Proof.Machine.execApplyBurst s
  | .rstNFall => Sys2Proof.Machine.execRstNFall s

end Sys2Proof.Machine
end

