-- ==== Sys2Proof/Safety.lean ====
section
/-! DEFINITION. What a safe state is, in the terms the claims use: the laws the manual states of every state, one predicate
each, and the reach of one step. -/

namespace Sys2Proof.Machine

/-- The factor lies in 0..4096, is 4096 whenever the stage is LIVE and 0 whenever it is PARKED (R71). -/
def State.FactorLaw (s : State) : Prop :=
  s.output.factor ≤ 4096 ∧ (s.output.stage = .live → s.output.factor = 4096) ∧
    (s.output.stage = .parked → s.output.factor = 0)

/-- The stage is LIVE or RISING only while the effective mode is LIVE and the node is ACTIVE (R71, R73). -/
def State.StageLaw (s : State) : Prop :=
  s.output.stage = .live ∨ s.output.stage = .rising → s.mayRise = true

/-- The two laws the manual states of the Output Stage, as one (R71). -/
def State.OutputLaw (s : State) : Prop := s.FactorLaw ∧ s.StageLaw

/-- The own request is the one its inputs give (R61). -/
def State.RequestLaw (s : State) : Prop := s.output.ownRequest = s.formOwnRequest

/-- The vote: the own request is what its inputs give, while RST_N is high, and the effective mode is no less restrictive than
the own request (R61, R67). -/
def State.VoteLaw (s : State) : Prop :=
  (s.inReset = false → s.RequestLaw) ∧ s.output.ownRequest.code ≤ s.output.effective.code

/-- A LEVEL entry that has not begun (R116, R118). -/
def TxEntry.freshLevel (e : TxEntry) : Bool := e.isLevel && !e.begun

/-- The Transmit Queue holds at most 8 entries; only the one at the current position may have begun; at most one LEVEL entry
has not begun; and a LEVEL is pending only while the queue is full and holds no such entry (R116, R118, R121). -/
def State.TxLaw (s : State) : Prop :=
  s.tx.entries.length ≤ 8 ∧ (∀ e ∈ s.tx.entries.tail, e.begun = false) ∧
    s.tx.entries.countP TxEntry.freshLevel ≤ 1 ∧
    (s.sender.pending.isSome → 8 ≤ s.tx.entries.length ∧ s.tx.entries.countP TxEntry.freshLevel = 0)

/-- These entries are pages of one announce group of `count` pages, the ones numbered from `first` on, in their order (R97,
R117). -/
def pagesFrom (first count : Nat) (pages : List TxEntry) : Prop :=
  first + pages.length ≤ count ∧ count ≤ 4 ∧
    ∀ (i : Nat) (e : TxEntry), pages[i]? = some e →
      ∃ known decls, e.body = .page (groupPos count (first + i)) (first + i) count known decls

/-- At most one announce group is in the Transmit Queue: its pages stand together and in order, with no other page. There are none
while the announce state is none or the group waits for places; the hold-off runs only while the announce state is none; and in
CONFIG the queue is empty and nothing can ask it for an entry (R105, R116, R119, R130, R131). -/
def State.GroupLaw (s : State) : Prop :=
  (∃ before pages after first count, s.tx.entries = before ++ pages ++ after ∧
    (∀ e ∈ before ++ after, e.isPage = false) ∧ pagesFrom first count pages) ∧
  (s.announce.state = .none ∨ s.announce.waiting = true → ∀ e ∈ s.tx.entries, e.isPage = false) ∧
  (s.announce.waiting = true → s.announce.state ≠ .none) ∧
  (s.announce.holdOff.isSome → s.announce.state = .none) ∧
  (s.node.state = .config → s.tx.entries = [] ∧ s.announce = {} ∧ s.sender.state = .silent ∧
    s.sender.levelTimer = none ∧ s.sender.refresh = none)

/-- The Receive FIFO holds at most four bursts and the event queue at most 32 records (R146, R168). -/
def State.QueueLaw (s : State) : Prop := s.fifo.length ≤ 4 ∧ s.events.queue.length ≤ 32

/-- The tables have their sizes: 15 records, 8 players, 16 channels, 8 axes, 16 profiles, the monitors and limited values of 8
axes, the frame's 8 axes, the 16 last channel values and ages, the Level Sender's 16 values, and what an open pass keeps of 8 axes
(R92, R28, R13, R50, R24, R81, R52, R55, R19, R131). -/
def State.SizeLaw (s : State) : Prop :=
  (s.peers.length = 15 ∧ s.players.length = 8 ∧ s.cfg.channels.length = 16 ∧ s.cfg.axes.length = 8) ∧
  (s.store.profiles.length = 16 ∧ s.monitor.axes.length = 8 ∧ s.merge.limited.length = 8) ∧
  (s.merge.frame.outputs.length = 8 ∧ s.merge.frame.clips.length = 8 ∧ s.merge.frame.warns.length = 8) ∧
  (s.merge.lastChannels.values.length = 16 ∧ s.merge.lastChannels.ages.length = 16) ∧
  (s.sender.posted.length = 16 ∧ s.sender.lastSent.length = 16) ∧
  ∀ p, s.merge.pass = some p → p.demands.length = 8 ∧ p.pres.length = 8 ∧ p.outputs.length = 8

/-- The Profile Store: the positions in use have been written, it has room for 1024 samples, and a profile being written has one of
the 16 numbers and fits in the room that is left (R24, R25). -/
def State.StoreLaw (s : State) : Prop :=
  s.store.nextFree ≤ s.store.samples.length ∧ s.store.samples.length ≤ 1024 ∧
    ∀ w, s.store.writing = some w → w.number ≤ 15 ∧ s.store.nextFree + w.samples.length ≤ 1024

/-- No two entries of the Source Table have the same station and channel (R3). -/
def State.SourceLaw (s : State) : Prop :=
  s.sources.Pairwise fun a b => ¬(a.station = b.station ∧ a.channel = b.channel)

/-- At most 8 players are not FREE, and no two of them have the same source and event id (R28). -/
def State.PlayerLaw (s : State) : Prop :=
  s.players.length ≤ 8 ∧
    s.players.Pairwise fun a b => ∀ p q, a = some p → b = some q → ¬(p.source = q.source ∧ p.event = q.event)

/-- The records of the event queue stand in the order of their period counts, none later than the count held now (R168). -/
def State.EventOrderLaw (s : State) : Prop :=
  (s.events.queue.Pairwise fun a b => a.count.toNat ≤ b.count.toNat) ∧
    ∀ r ∈ s.events.queue, r.count.toNat ≤ s.merge.periodCount.toNat

/-- A declaration list a page can carry: at most four, channels 0..15, ranks of one byte (R149, R154). -/
def declarationsFit (ds : List Declaration) : Prop := ds.length ≤ 4 ∧ ∀ d ∈ ds, d.1 ≤ 15 ∧ d.2 < 256

/-- An item whose fields lie in the ranges R151 gives them. -/
def TriggerItem.Fits : TriggerItem → Prop
  | .start channel event profile amplitude priority lead =>
    channel ≤ 15 ∧ event < 256 ∧ profile ≤ 15 ∧ amplitude < 256 ∧ priority ≤ 3 ∧ lead < 256
  | .cancel event => event < 256

/-- A payload whose fields lie in the ranges chapter 9 gives them (R149 to R152). -/
def Payload.Fits : Payload → Prop
  | .page0 count role _ decls => 1 ≤ count ∧ count ≤ 4 ∧ role < 256 ∧ declarationsFit decls
  | .page index count decls => 1 ≤ index ∧ index < count ∧ count ≤ 4 ∧ declarationsFit decls
  | .level pairs =>
    (pairs.Pairwise fun a b => a.1 < b.1) ∧ ∀ p ∈ pairs, p.1 ≤ 15 ∧ -32768 ≤ p.2 ∧ p.2 ≤ 32767
  | .trigger items => 1 ≤ items.length ∧ items.length ≤ 4 ∧ ∀ i ∈ items, i.Fits
  | .bye => True

/-- A burst whose fields lie in their ranges (R148 to R152). -/
def Burst.Fits (b : Burst) : Prop := b.source < 16 ∧ b.seq < 256 ∧ b.payload.Fits

/-- This change, put behind those the pass in progress holds, is made as that pass ends: the step that ends the pass then does what it
does without the change, and after it what the command does, but for the states in which the change has come to nothing (R11, R49). -/
def State.MadeAsThePassEnds (s : State) (h : HeldChange) (c : Instr) (nothing : State → Prop) : Prop :=
  s.pending = [] → ∃ v, step s = .next v ∧ v.merge.pass = none ∧
    (¬nothing v → step { s with merge := { s.merge with held := s.merge.held ++ [h] } } = exec c v) ∧
    (nothing v → step { s with merge := { s.merge with held := s.merge.held ++ [h] } } = .next v)

/-- The check value is formed as R153 says: the register starts at 0xFFFF and takes each byte of the list most significant bit first;
for each bit the feedback is that bit combined with bit 15 of the register, the register shifts left by one place, and where the
feedback is 1 it is combined with 0x1021. Nothing is inverted at the end. -/
def CheckValueFormed : Prop :=
  let bit := fun (reg : BitVec 16) (b : Bool) => if (b ^^ reg.getLsbD 15) = true then reg <<< 1 ^^^ 0x1021 else reg <<< 1
  crc16 [] = 0xFFFF ∧ ∀ (bytes : List Byte) (b : Byte), crc16 (bytes ++ [b]) =
    bit (bit (bit (bit (bit (bit (bit (bit (crc16 bytes) (b.getLsbD 7)) (b.getLsbD 6)) (b.getLsbD 5)) (b.getLsbD 4))
      (b.getLsbD 3)) (b.getLsbD 2)) (b.getLsbD 1)) (b.getLsbD 0)

/-- These bytes are a declaration count, at most four, and that many declarations of a channel 0..15 and a rank (R149, R154). -/
def DeclarationsRead (bytes : List Byte) (decls : List Declaration) : Prop :=
  decls.length ≤ 4 ∧ bytes.length = 1 + 2 * decls.length ∧ (bytes.getD 0 0).toNat = decls.length ∧
    ∀ (i : Nat) (d : Declaration), decls[i]? = some d →
      (bytes.getD (1 + 2 * i) 0).toNat = d.1 ∧ d.1 ≤ 15 ∧ (bytes.getD (2 + 2 * i) 0).toNat = d.2

/-- What a receiver reads of an item's five bytes: of a CANCEL the event id alone, and neither bit 6 of byte 0 nor bits 7 to 4 of
byte 2 of either action (R151). -/
def TriggerItem.read (b : Nat → Byte) : TriggerItem :=
  if (b 0).getLsbD 7 then .cancel (b 1).toNat
  else .start ((b 0).toNat % 16) (b 1).toNat ((b 2).toNat % 16) (b 3).toNat ((b 0).toNat / 16 % 4) (b 4).toNat

/-- These payload bytes break no format check of their kind and read as this payload (R149 to R152, R154). -/
def Payload.ReadFrom (bytes : List Byte) : Payload → Prop
  | .page0 count role known decls =>
    (bytes.getD 0 0).toNat = count ∧ 1 ≤ count ∧ count ≤ 4 ∧ (bytes.getD 1 0).toNat = role ∧
      bytes.getD 2 0 ++ bytes.getD 3 0 = known ∧ DeclarationsRead (bytes.drop 4) decls
  | .page index count decls =>
    (bytes.getD 0 0).toNat = 16 * index + count ∧ 1 ≤ index ∧ index < count ∧ count ≤ 4 ∧ DeclarationsRead (bytes.drop 1) decls
  | .level pairs =>
    bytes.length = 3 * pairs.length ∧ (pairs.Pairwise fun a b => a.1 < b.1) ∧
      ∀ (i : Nat) (p : Nat × Int), pairs[i]? = some p → (bytes.getD (3 * i) 0).toNat = p.1 ∧ p.1 ≤ 15 ∧
        (bytes.getD (3 * i + 1) 0 ++ bytes.getD (3 * i + 2) 0 : BitVec 16).toInt = p.2
  | .trigger items =>
    1 ≤ items.length ∧ items.length ≤ 4 ∧ bytes.length = 5 * items.length ∧
      ∀ (i : Nat) (item : TriggerItem), items[i]? = some item → item = TriggerItem.read fun k => bytes.getD (5 * i + k) 0
  | .bye => bytes = []

/-- These four header bytes and payload bytes break no check of R145 but the CRC's and read as this burst: kind and source in byte
0, the sequence in byte 1, the mode request and the hold flag in bits 7 to 5 of byte 2, whose other bits are not read, and the length
in byte 3 (R148). -/
def Burst.ReadFrom (b : Burst) (h0 h1 h2 h3 : Byte) (payload : List Byte) : Prop :=
  h0.toNat = 16 * b.payload.kind + b.source ∧ b.source ≤ 15 ∧ b.seq = h1.toNat ∧ b.request.code = h2.toNat / 64 ∧
    b.hold = h2.getLsbD 5 ∧ h3.toNat = payload.length ∧ b.payload.ReadFrom payload

/-- No merge pass is in progress and none has left a change behind (R11, R49). -/
def State.BetweenPasses (s : State) : Prop := s.merge.pass = none ∧ s.merge.held = []

/-- The local port takes a command: RST_N is high, the decoder waits for a command byte, and READY is high (R155, R157). -/
def State.Open (s : State) : Prop := s.inReset = false ∧ s.port.decoder = .waiting ∧ s.port.ready = true

/-- The local port after a command is answered with these bytes: the response is fixed, READY and the operation in progress stay
(R155). -/
def Port.answered (p : Port) (bytes : List Byte) : Port :=
  { p with decoder := .givingResponse, response := bytes, offered := 0 }

/-- The queue holds these entries and the Peer Table's announce record is this one, or the engine has begun to drive the first of
them, which had not begun: that entry is then begun and numbered, and a page 0 has taken its known mask and may have taken the
announce state with it (R105, R121). -/
def State.QueueIs (u : State) (queue : List TxEntry) (announce : Announce) : Prop :=
  (u.tx.entries = queue ∧ u.announce = announce) ∨
  (u.tx.engine.work = some .driving ∧ ∃ e rest e', queue = e :: rest ∧ u.tx.entries = e' :: rest ∧ e.begun = false ∧
    e' = { e with begun := true, sequence := e'.sequence, body := e'.body } ∧
    (e.isPage0 = false → e'.body = e.body ∧ u.announce = announce) ∧
    (e.isPage0 = true → e'.isPage0 = true ∧ u.announce = { announce with state := u.announce.state }))

/-- What asking for a LEVEL with this hold flag has done to the queue between `s` and `u`: the LEVEL entry that had not begun is
rewritten; with none and no free place the LEVEL is held pending; otherwise an entry has joined behind the others, and an idle engine
has turned to it (R118, R120). -/
def State.LevelAsked (s u : State) (hold : Bool) : Prop :=
  ((∃ e ∈ s.tx.entries, e.freshLevel = true) →
    u.tx = { s.tx with entries := s.tx.entries.map fun e =>
      if e.freshLevel then { e with body := .level s.levelPairs hold } else e } ∧
    u.line = s.line ∧ u.announce = s.announce ∧ u.sender.pending = s.sender.pending) ∧
  ((∀ e ∈ s.tx.entries, e.freshLevel = false) → 8 ≤ s.tx.entries.length →
    u.tx = s.tx ∧ u.line = s.line ∧ u.announce = s.announce ∧ u.sender.pending = some hold) ∧
  ((∀ e ∈ s.tx.entries, e.freshLevel = false) → s.tx.entries.length < 8 →
    u.QueueIs (s.tx.entries ++ [{ body := .level s.levelPairs hold }]) s.announce ∧ u.sender.pending = s.sender.pending ∧
    u.tx.current = s.tx.current ∧ u.tx.last = (s.tx.last + 1) % 8 ∧
    (s.tx.engine ≠ .idle → u.tx = { s.tx with
        entries := s.tx.entries ++ [{ body := .level s.levelPairs hold }], last := (s.tx.last + 1) % 8 } ∧
      u.line = s.line ∧ u.announce = s.announce) ∧
    (s.tx.engine = .idle → (u.tx.engine = .working .defer ∨ u.tx.engine = .working .driving) ∧ u.line.wait = .none))

/-- What an event that forms the own request again has told the Level Sender between `s` and `u`: while that is CHANGING or HOLDING a
change of the request asks for a LEVEL, with the hold flag of its state; otherwise the queue, the engine and the line stay (R65,
R133). -/
def State.RequestTold (s u : State) : Prop :=
  (u.output.ownRequest ≠ s.output.ownRequest → s.sender.state ≠ .silent →
    s.LevelAsked u (decide (s.sender.state = .holding))) ∧
  (u.output.ownRequest = s.output.ownRequest ∨ s.sender.state = .silent →
    u.tx = s.tx ∧ u.line = s.line ∧ u.announce = s.announce ∧ u.sender.pending = s.sender.pending)

/-- The records with which an event ends that has taken the vote between `s` and `u`: MODE_CHANGED with the new and the previous mode
exactly where the effective mode has changed, then STAGE_CHANGED with the new stage and the factor exactly where the stage has (R69,
R71, R79). -/
def State.voteRecords (s u : State) : List Record :=
  (if u.output.effective = s.output.effective then [] else [{
    kind := .modeChanged, count := s.merge.periodCount, detail := some u.output.effective.code
    value := some (s.output.effective.code : Int) }]) ++
  (if u.output.stage = s.output.stage then [] else [{
    kind := .stageChanged, count := s.merge.periodCount, detail := some u.output.stage.code
    value := some (u.output.factor : Int) }])

/-- Between `s` and `u` these records have been offered to the event queue, in this order, then those of the vote, and no other
(R69, R79, R168). -/
def State.Raised (s u : State) (records : List Record) : Prop :=
  u.events = (records ++ s.voteRecords u).foldl EventUnit.offer s.events

/-- These are the pages of this node's announce group as it joins the queue: page `i` with the own declarations from the one
numbered 4i on, at most four, its place in the group, and nothing begun (R97, R117, R119). -/
def State.OwnGroup (s : State) (pages : List TxEntry) : Prop :=
  pages.length = max 1 ((s.ownDeclarations.length + 3) / 4) ∧
  ∀ (i : Nat) (e : TxEntry), pages[i]? = some e →
    ∃ pos, e = { body := .page pos i pages.length none ((s.ownDeclarations.drop (4 * i)).take 4)
                 sequence := none, attempts := 0, begun := false } ∧
      (pos = .alone ↔ pages.length = 1) ∧ (pos = .first ↔ i = 0 ∧ 1 < pages.length) ∧
      (pos = .last ↔ 1 ≤ i ∧ i + 1 = pages.length)

/-- What queueing an announce group behind `queue` has made of the queue in `u`: the group has joined whole where it fits, and
waits outside otherwise (R119). -/
def State.GroupJoins (s u : State) (queue : List TxEntry) (announce : Announce) : Prop :=
  let pages := max 1 ((s.ownDeclarations.length + 3) / 4)
  (queue.length + pages ≤ 8 → ∃ group, s.OwnGroup group ∧ u.QueueIs (queue ++ group) { announce with waiting := false }) ∧
  (8 < queue.length + pages → u.QueueIs queue { announce with waiting := true })

/-- A pending LEVEL, as the entry that joins when a place frees (R118). -/
def State.heldLevel (s : State) : List TxEntry :=
  match s.sender.pending with
  | some hold => [{ body := .level s.levelPairs hold }]
  | none => []

/-- What the places that have freed, with `left` in the queue, have been given to between `s` and `u`: first the pending LEVEL,
then a waiting announce group (R118, R119). -/
def State.Refilled (s u : State) (left : List TxEntry) : Prop :=
  u.sender.pending = none ∧
  (s.announce.waiting = false → u.QueueIs (left ++ s.heldLevel) s.announce) ∧
  (s.announce.waiting = true → s.GroupJoins u (left ++ s.heldLevel) s.announce)

/-- What the end of this node's announce group, with `left` in the queue, has done between `s` and `u`: after its completion the
hold-off runs, after its drop it does not, and a remembered request has queued a new group instead (R105); a JOIN in progress has
ended, and the join window has started if the node is still JOINING (R111, R112). -/
def State.GroupEnded (s u : State) (left : List TxEntry) (completed : Bool) : Prop :=
  u.sender.pending = none ∧
  (s.announce.remembered = false → u.QueueIs (left ++ s.heldLevel) { s.announce with
    state := .none, holdOff := if completed then some u.now else s.announce.holdOff }) ∧
  (s.announce.remembered = true →
    s.GroupJoins u (left ++ s.heldLevel) { s.announce with state := .queued, remembered := false }) ∧
  (s.port.blocking = .join → u.port = { s.port with blocking := .none, ready := true } ∧
    u.node = { s.node with window := if s.node.state = .joining then some u.now else s.node.window }) ∧
  (s.port.blocking ≠ .join → u.port = s.port ∧ u.node = s.node)

/-- The engine after the group of its entry is over: SUSPENDED when QUIET asked for it, IDLE with nothing queued, and otherwise
at the next entry, waiting for the gap or already driving (R120, R126). -/
def State.MovedOn (s u : State) : Prop :=
  (∀ w, s.tx.engine = .working w →
    (u.tx.entries = [] → u.tx.engine = .idle) ∧
    (u.tx.entries ≠ [] → u.tx.engine = .working .defer ∨ u.tx.engine = .working .driving)) ∧
  (∀ w, s.tx.engine = .suspending w → u.tx.engine = .suspended) ∧ (s.tx.engine = .suspended → u.tx.engine = .suspended)

/-- `left` is what stands behind this entry when it is dropped: of the entries `rest`, the later pages of its group leave with it
(R124). -/
def TxEntry.LeavesBehind (e : TxEntry) (rest left : List TxEntry) : Prop :=
  ∃ pages, rest = pages ++ left ∧ (∀ p ∈ pages, p.laterPage = true) ∧ pages.length ≤ 3 ∧
    (e.hasLaterPages = false → pages = []) ∧
    (e.hasLaterPages = true → ∀ p, left.head? = some p → p.laterPage = false)

/-- The record with which the Transmit Queue drops its current entry after an attempt that failed at `now`, none where it keeps
the entry: TX_DROPPED as LATE after the collision window; TRIGGER_DROPPED as STALE for a TRIGGER past its deadline; and TX_DROPPED
as EXCESSIVE at the twelfth failure without persist (R123, R124, R125). -/
def State.failureRecord (s : State) (e : TxEntry) (late : Bool) (now : Nat) : Option Record :=
  let txDropped := fun reason : Nat => ({
    kind := .txDropped, count := s.merge.periodCount, station := some s.cfg.station, detail := some reason
    value := e.sequence.map Int.ofNat } : Record)
  let excessive := if e.attempts + 1 < 12 ∨ s.cfg.timing.persist = true then none else some (txDropped 2)
  if late then some (txDropped 1)
  else match e.body with
    | .trigger item _ deadline =>
      if deadline ≤ now then some {
        kind := .triggerDropped, count := s.merge.periodCount, station := some s.cfg.station
        channel := item.staleFields.1, detail := some 7, value := some (item.staleFields.2 : Int) }
      else excessive
    | _ => excessive

/-- What the drop of the current entry with this record, `rest` standing behind it, has done between `s` and `u` (R124, R125): it
is counted and reported, the later pages of its group leave with it, the freed places are taken, the engine moves on, and the drop
of an announce group or of a BYE is reported to its owner. -/
def State.Dropped (s u : State) (e : TxEntry) (rest : List TxEntry) (record : Record) : Prop :=
  u.counters.txDropped = min 65535 (s.counters.txDropped + 1) ∧ u.events = s.events.offer record ∧
  u.line.backoffReg = s.line.backoffReg ∧ u.line.wait = .none ∧ u.sender = { s.sender with pending := none } ∧ s.MovedOn u ∧
  ∀ left, e.LeavesBehind rest left →
    (e.isPage = false → s.Refilled u left ∧ u.port = s.port ∧
      u.node = { s.node with leaveDue := s.node.leaveDue || decide (e.body = .bye) }) ∧
    (e.isPage = true → s.announce.waiting = false → s.GroupEnded u left false)

/-- An attempt at the current entry `e`, `rest` standing behind it, has begun between `s` and `u` (R121, R139). On the first
attempt the entry has begun and takes the node's sequence number, which moves on, and a page 0 takes the known mask of this moment,
the announce state becoming begun; a retry keeps what the first took (R97, R105). The burst carries the entry, this node's station,
its number and the own request, and its bits stand on the line from now on (R137, R148). What else an event that ends so has changed
is said beside it. -/
def State.DriveBegins (s u : State) (e : TxEntry) (rest : List TxEntry) : Prop :=
  ∃ e' b, u.line.drive = .driving b u.now ∧ u.tx = { s.tx with
      engine := s.tx.engine.at .driving, entries := e' :: rest, sequence := u.tx.sequence } ∧
    e' = { e with begun := true, sequence := e'.sequence, body := e'.body } ∧
    (e.begun = true → e' = e ∧ u.tx.sequence = s.tx.sequence) ∧
    (e.begun = false → e'.sequence = some s.tx.sequence ∧ u.tx.sequence = (s.tx.sequence + 1) % 256) ∧
    b.source = s.cfg.station ∧ b.seq = e'.sequence.getD 0 ∧ b.request = s.output.ownRequest ∧
    (∀ pairs hold, e.body = .level pairs hold → e'.body = e.body ∧ b.payload = .level pairs ∧ b.hold = hold) ∧
    (∀ item q d, e.body = .trigger item q d → e'.body = e.body ∧ b.payload = .trigger [item] ∧ b.hold = false) ∧
    (e.body = .bye → e'.body = e.body ∧ b.payload = .bye ∧ b.hold = false) ∧
    (∀ pos index count known decls, e.body = .page pos index count known decls → b.hold = false ∧
      (1 ≤ index → e'.body = e.body ∧ b.payload = .page index count decls) ∧
      (index = 0 → ∃ mask, b.payload = .page0 count (roleCode s.cfg.role) mask decls ∧
        (e.begun = true → mask = known.getD 0) ∧
        (e.begun = false → e'.body = .page pos 0 count (some mask) decls ∧
          ∀ st, mask.getLsbD st = true ↔ st ≤ 15 ∧ (s.peerAt st).self = false ∧
            ((s.peerAt st).link = .present ∨ (s.peerAt st).link = .holding)))) ∧
    (e.isPage0 = true → e.begun = false → u.announce = { s.announce with state := .begun }) ∧
    (e.isPage0 = false ∨ e.begun = true → u.announce = s.announce) ∧
    (∀ i, u.line.drivenAt (u.now + i) = b.onLine[i]?) ∧
    u.line = { s.line with
      drive := u.line.drive, quiet := u.line.quiet, wait := u.line.wait, run := s.line.run.map Run.discarded }

/-- The engine has turned to its current entry at the instant `u.now`: it drives at once where the gap has ended on a free line, and
waits in DEFER while the quiet count stands below 64 or carrier is on the line (R120, R127, R138, R139). -/
def State.TurnsToDefer (s u : State) : Prop :=
  (s.line.quiet = .stopped ∨ (∃ since, s.line.quiet = .counting since ∧ u.now < since + 64) ∨ s.line.run ≠ none ∨
      s.line.drive ≠ .idle →
    u.tx = { s.tx with engine := s.tx.engine.at .defer } ∧ u.line = { s.line with wait := .none } ∧ u.announce = s.announce) ∧
  ((s.line.quiet = .ended ∨ ∃ since, s.line.quiet = .counting since ∧ since + 64 ≤ u.now) → s.line.run = none →
    s.line.drive = .idle → ∀ e rest, s.tx.entries = e :: rest →
      s.DriveBegins u e rest ∧ u.line.wait = .none ∧ u.line.quiet = s.line.quiet)

/-- This node's announce group has been queued between `s` and `u`: it has joined whole behind the entries where it fits, and an idle
engine has turned to the queue; where it does not fit it waits outside, and the queue stays (R105, R119, R120). -/
def State.GroupQueued (s u : State) : Prop :=
  let pages := max 1 ((s.ownDeclarations.length + 3) / 4)
  (s.tx.entries.length + pages ≤ 8 → ∃ group, s.OwnGroup group ∧
    let queued : State := { s with
      tx := { s.tx with entries := s.tx.entries ++ group, last := (s.tx.last + pages) % 8 }
      announce := { s.announce with state := .queued, waiting := false } }
    (s.tx.engine ≠ .idle → u.tx = queued.tx ∧ u.line = queued.line ∧ u.announce = queued.announce) ∧
    (s.tx.engine = .idle → queued.TurnsToDefer u)) ∧
  (8 < s.tx.entries.length + pages →
    u.tx = s.tx ∧ u.line = s.line ∧ u.announce = { s.announce with state := .queued, waiting := true })

/-- What a re-announce request has done between `s` and `u`, by the table of R105: with no group of its own and no hold-off a group is
queued; a group queued absorbs the request; a group begun or a hold-off running remembers it. A listener, and a node outside JOINING
and ACTIVE, takes none (R103, R104). -/
def State.AnnounceAsked (s u : State) : Prop :=
  let same := u.tx = s.tx ∧ u.line = s.line
  (s.cfg.station = 0 ∨ (s.node.state ≠ .joining ∧ s.node.state ≠ .active) → same ∧ u.announce = s.announce) ∧
  (s.cfg.station ≠ 0 → s.node.state = .joining ∨ s.node.state = .active →
    (s.announce.state = .none → s.announce.holdOff = none → s.GroupQueued u) ∧
    (s.announce.state = .none → s.announce.holdOff ≠ none → same ∧ u.announce = { s.announce with remembered := true }) ∧
    (s.announce.state = .queued → same ∧ u.announce = s.announce) ∧
    (s.announce.state = .begun → same ∧ u.announce = { s.announce with remembered := true }))

/-- An event has asked for a re-announce and then formed the own request again between `s` and `u`, which has changed nothing else
of the queue, the line and the announce record (R103, R105, R65). -/
def State.AnnounceTold (s u : State) : Prop :=
  ∃ tx line announce, let asked : State := { s with tx, line, announce }
    s.AnnounceAsked asked ∧ asked.RequestTold u

/-- The own request is what its inputs give, and the effective mode is what the voters give (R61, R67, R69). -/
def State.Voted (s : State) : Prop := s.RequestLaw ∧ s.output.effective = s.formEffective

/-- What FAULT entry has made of the node between `s` and `u`: the node is in FAULT with no join window and no LEAVE completion due,
the engine is STOPPED and this node off the line, the Level Sender is SILENT, the hold-off and what waits or is remembered for the
announce group are gone, the own request and the effective mode are PARK, the stage is not LIVE or RISING and the factor stays, and
a blocking JOIN or LEAVE has ended (R61, R71, R105, R111, R113, R114, R128, R131). -/
def State.FaultEntered (s u : State) : Prop :=
  u.node = { s.node with state := .fault, window := none, leaveDue := false } ∧
  u.tx.engine = .stopped ∧ u.line.drive = .idle ∧ u.line.wait = .none ∧
  u.sender = { s.sender with state := .silent, levelTimer := none, refresh := none, pending := none } ∧
  u.announce.holdOff = none ∧ u.announce.remembered = false ∧ u.announce.waiting = false ∧
  u.output.ownRequest = .park ∧ u.output.effective = .park ∧ u.Voted ∧ u.output.localRequest = s.output.localRequest ∧
  u.output.stage ≠ .live ∧ u.output.stage ≠ .rising ∧ u.output.factor = s.output.factor ∧
  (s.port.blocking = .join ∨ s.port.blocking = .leave → u.port = { s.port with blocking := .none, ready := true }) ∧
  (s.port.blocking ≠ .join → s.port.blocking ≠ .leave → u.port = s.port)

/-- What LEAVE completion has made of the node between `s` and `u`: it is in CONFIG with the tables and the queues empty, every
player FREE, every limited value, flag and hard count 0, the peer records cleared but for their counters, the receive path closed,
the stage PARKED at factor 0 and the vote taken. The last frame, the latch, the sequence number and the local request stay (R4, R42,
R52, R78, R81, R93, R113, R130, R138, R144). -/
def State.SessionEnded (s u : State) : Prop :=
  u.node = { state := .config, quiet := false, window := none, leaveDue := false } ∧
  u.sources = [] ∧ u.fifo = [] ∧ u.players = List.replicate 8 none ∧
  u.merge = { s.merge with limited := List.replicate 8 0 } ∧ u.monitor = { s.monitor with axes := List.replicate 8 {} } ∧
  u.tx = { entries := [], current := 0, last := 0, engine := .off, sequence := s.tx.sequence } ∧
  u.sender = State.reset.sender ∧ u.announce = State.reset.announce ∧
  u.peers = (s.peers.map fun p => { self := p.self, gaps := p.gaps, losses := p.losses, undeclared := p.undeclared }) ∧
  u.line = { s.line with
    receiveOpen := false, quiet := .stopped, wait := .none, echoFails := 0, run := s.line.run.map Run.discarded } ∧
  u.Voted ∧ u.output.localRequest = s.output.localRequest ∧ u.output.stage = .parked ∧ u.output.factor = 0

end Sys2Proof.Machine
end

