-- ==== Sys2Proof/Certificates/Slice0/Obligations.lean ====
section
/-! DEFINITION. The statements for the provers, in the order of OBLIGATIONS.json. -/

open Sys2Proof Sys2Proof.Machine

/-! ### The machine -/

/-- The step of the block takes the oldest waiting command and carries it out with the rest of the queue; with nothing waiting
and no pass in progress it idles (the model's queue, log entry 2). -/
def Obligations.StepTakesTheFrontCommand : Prop :=
  (∀ (c : Instr) (rest : List Instr) (s : State), s.pending = c :: rest → step s = exec c { s with pending := rest }) ∧
  (∀ s : State, s.pending = [] → s.merge.pass = none → step s = .next s)

/-- A pass that is not whole runs through stages 1 to 7 and stays open: nothing is published. With no command in between, the step
on an empty queue makes of it what the whole pass makes. Whatever came in between, that step ends it: one frame, one STROBE pulse,
nothing held back (the model's choice, log entry 1). -/
def Obligations.StepEndsAnOpenPass : Prop :=
  (∀ (s : State) (o : HandOverOrder), s.inReset = false → s.BetweenPasses → s.pending = [] →
    ∃ u, exec (.outputPeriodExpiry o false) s = .next u ∧ u.merge.pass ≠ none ∧ u.merge.frame = s.merge.frame ∧
      u.strobes = s.strobes ∧ u.merge.periodCount = s.merge.periodCount + 1 ∧ u.output = s.output ∧
      step u = exec (.outputPeriodExpiry o true) s) ∧
  ∀ (s : State) (p : Pass), s.pending = [] → s.merge.pass = some p →
    ∃ u, step s = .next u ∧ u.BetweenPasses ∧ u.pending = [] ∧ u.strobes = s.strobes + 1 ∧
      u.merge.frame.number = s.merge.periodCount ∧ u.merge.frame.factor = p.factor ∧
      u.merge.frame.outputs = p.outputs ∧ u.merge.periodCount = s.merge.periodCount ∧
      u.cfg = s.cfg ∧ u.store = s.store ∧ u.inReset = s.inReset ∧ u.haltLow = s.haltLow

/-- Every command has an answer, an event record or no effect, and none stops the block; none touches the commands that wait
behind it, and time never runs back (log entries 2 and 3). -/
def Obligations.EveryCommandEnds : Prop :=
  ∀ (c : Instr) (s : State), ∃ u, exec c s = .next u ∧ u.pending = s.pending ∧ s.now ≤ u.now

/-! ### Laws that every step keeps -/

/-- The factor lies in 0..4096, is 4096 in LIVE and 0 in PARKED, and the stage is LIVE or RISING only while the effective mode
is LIVE and the node ACTIVE: every step keeps this, from any state that has it (R71, R73). -/
def Obligations.OutputLawKept : Prop :=
  ∀ s t : State, s.OutputLaw → step s = .next t → t.OutputLaw

/-- The own request is the one its inputs give, and the effective mode is no less restrictive: every step keeps this (R61,
R67, R69). -/
def Obligations.VoteLawKept : Prop :=
  ∀ s t : State, s.VoteLaw → step s = .next t → t.VoteLaw

/-- The trip latch, once set, is cleared by RESTART and power-on reset and by no other command; and in every state with the two
laws above in which it is set, the own request and the effective mode are PARK and the stage is EASING or PARKED (R87, R64). -/
def Obligations.TripHoldsTheNodeParked : Prop :=
  (∀ (c : Instr) (s u : State), (∀ t, c ≠ .restart t) → (∀ t, c ≠ .powerOnReset t) →
    s.monitor.trip = true → exec c s = .next u → u.monitor.trip = true) ∧
  (∀ s : State, s.OutputLaw → s.VoteLaw → s.inReset = false → s.monitor.trip = true →
    s.output.ownRequest = .park ∧ s.output.effective = .park ∧ (s.output.stage = .easing ∨ s.output.stage = .parked))

/-- The Transmit Queue keeps its law: at most 8 entries, at most one LEVEL entry that has not begun, no entry begun but the
current one, and a LEVEL pending only while the queue is full (R116, R118, R121). At most one announce group stands in it: that is
the next statement. -/
def Obligations.TxLawKept : Prop :=
  ∀ s t : State, s.TxLaw → step s = .next t → t.TxLaw

/-- At most one announce group is in the Transmit Queue, its pages together and in their order: every step keeps this, with what
it rests on, which is that no page is there while the announce state is none or the group waits outside, that the hold-off runs
only while the state is none, and that in CONFIG the queue is empty and nothing asks it for an entry (R97, R105, R116, R119,
R130, R131). -/
def Obligations.OneAnnounceGroup : Prop :=
  ∀ s t : State, s.TxLaw → s.GroupLaw → step s = .next t → t.GroupLaw

/-- The Source Table never holds two entries of one station and channel; no two players that are not FREE ever have the same
source and event id, and there are never more than 8 (R3, R28). -/
def Obligations.TableKeysKept : Prop :=
  (∀ s t : State, s.SourceLaw → step s = .next t → t.SourceLaw) ∧
  (∀ s t : State, s.PlayerLaw → step s = .next t → t.PlayerLaw)

/-- The Receive FIFO holds at most 4 bursts, the event queue at most 32 records, and every table keeps its size; the Profile Store
keeps to its room; the event queue stands in non-decreasing order of period count, as long as the count does not wrap in the step
(R146, R168, R92, R28, R13, R50, R24, R25, R52, R55, R19, R131). -/
def Obligations.QueuesAndSizesKept : Prop :=
  (∀ s t : State, s.QueueLaw → s.SizeLaw → step s = .next t → t.QueueLaw ∧ t.SizeLaw) ∧
  (∀ s t : State, s.StoreLaw → step s = .next t → t.StoreLaw) ∧
  (∀ s t : State, s.EventOrderLaw → s.merge.periodCount.toNat + 1 < 2 ^ 32 → step s = .next t → t.EventOrderLaw)

/-- The block after power-on reset has every law above (R164). -/
def Obligations.ResetHasTheLaws : Prop :=
  State.reset.OutputLaw ∧ State.reset.VoteLaw ∧ State.reset.TxLaw ∧ State.reset.GroupLaw ∧ State.reset.QueueLaw ∧
    State.reset.SizeLaw ∧ State.reset.StoreLaw ∧ State.reset.SourceLaw ∧ State.reset.PlayerLaw ∧ State.reset.EventOrderLaw

/-- The settings, the alert routes and the stored profiles' records change in CONFIG only, and otherwise at power-on reset
(R158, R24, R171). PROFILE_WRITE_COMPLETE ends a write that began in CONFIG. -/
def Obligations.SettingsFixedOutsideConfig : Prop :=
  ∀ (c : Instr) (s u : State), (∀ t, c ≠ .powerOnReset t) → c ≠ .profileWriteComplete → s.node.state ≠ .config →
    exec c s = .next u →
    u.cfg = s.cfg ∧ u.events.routes = s.events.routes ∧ u.store.profiles = s.store.profiles ∧
      u.store.samples = s.store.samples ∧ u.store.nextFree = s.store.nextFree

/-! ### Bytes -/

/-- The check value is formed bit by bit as R153 says. The bits of a burst on the line are those of four bytes
0x55, the start byte 0xB9, the header, the payload and the check value, each byte most significant bit first; a receiver collects
from them the bytes after the start byte, and the burst passes every
check and is read as it was formed: every kind, with every field at every value its range admits (R137, R145, R148 to R154). The
model's own here: log entries 20 and 34. -/
def Obligations.OwnBurstsPassTheChecks : Prop :=
  CheckValueFormed ∧ ∀ b : Burst,
    (b.onLine.length = b.lineBits ∧ b.lineBits = 8 * (11 + b.payload.bytes.length) ∧
      ∀ i, i < b.lineBits → b.onLine[i]? =
        (([0x55, 0x55, 0x55, 0x55, 0xB9] ++ b.header ++ b.payload.bytes ++
          bytes16 (crc16 (b.header ++ b.payload.bytes)).toNat)[i / 8]?).map fun x : Byte => x.getLsbD (7 - i % 8)) ∧
    (b.Fits → ∃ r : Run, Run.collect { received := true } b.onLine = r ∧ r.bytes = some b.bytes ∧ r.aborted = false ∧
      b.lineBits ≤ 472 ∧ r.judge = .good b)

/-- The bytes of a transaction spell the command they were laid out for, with every parameter at every value, and a transaction
cut short spells none (R155, R165). Bytes after the last parameter are ignored. The model's own here: log entries 8 and 23. -/
def Obligations.TransactionsSpellTheirCommand : Prop :=
  ∀ (i : Instr) (bytes : List Byte) (t : Nat), i.wellFormed = true → encodeTransaction i = some bytes →
    (∀ extra, decodeTransaction t (bytes ++ extra) = some (i.takenAt t)) ∧
    (∀ n, n < bytes.length → decodeTransaction t (bytes.take n) = none)

/-! ### The cue arithmetic -/

/-- Division rounds to nearest, ties away from zero, for every positive even divisor (R1). -/
def Obligations.DivisionRoundsToNearest : Prop :=
  ∀ (x : Int) (d : Nat), 0 < d → d % 2 = 0 →
    roundDiv x d = x.sign * (((x.natAbs + d / 2) / d : Nat) : Int) ∧
    2 * (x - d * roundDiv x d).natAbs ≤ d ∧
    (2 * (x - d * roundDiv x d).natAbs = d → x.natAbs < (d * roundDiv x d).natAbs)

/-- The sustained value of a channel. Its VALID and FADING entries take part, and no other. SUM: their exact sum, saturated, 0 if
there is none. GREATEST: the entry of greatest magnitude, ties to the lowest station. RANKED: the VALID entry of highest rank, ties
to the lowest station, and only where no VALID entry is collected, the FADING entry of highest rank (R14, R15, R16, R17). -/
def Obligations.PoliciesMerge : Prop :=
  ∀ (channels : List Channel) (table : List SourceEntry) (c : Nat),
    (∀ v : Voice, v ∈ voices table c ↔ ∃ e ∈ table, e.channel = c ∧ v.station = e.station ∧ v.rank = e.rank ∧
      (e.held = .valid v.value ∧ v.isValid = true ∨ e.held = .fading v.value ∧ v.isValid = false)) ∧
    ((channels.getD c {}).policy = .sum → sustained channels table c = max (-32767) (min 32767
      ((table.map fun e => if e.channel = c then match e.held with
        | .valid v => v
        | .fading v => v
        | .empty => 0
      else 0).sum))) ∧
    ((channels.getD c {}).policy = .greatest →
      (voices table c = [] → sustained channels table c = 0) ∧
      (voices table c ≠ [] → ∃ v ∈ voices table c, sustained channels table c = v.value ∧
        ∀ w ∈ voices table c, w.value.natAbs < v.value.natAbs ∨
          (w.value.natAbs = v.value.natAbs ∧ v.station ≤ w.station))) ∧
    ((channels.getD c {}).policy = .ranked →
      (voices table c = [] → sustained channels table c = 0) ∧
      (voices table c ≠ [] → ∃ v ∈ voices table c, sustained channels table c = v.value ∧
        (v.isValid = false → ∀ w ∈ voices table c, w.isValid = false) ∧
        ∀ w ∈ voices table c, w.isValid = v.isValid →
          w.rank < v.rank ∨ (w.rank = v.rank ∧ v.station ≤ w.station)))

/-- At the first stage of a pass every FADING entry steps toward zero by its channel's fade step; one that has no more than a
step left becomes EMPTY, and is removed where its declaration is gone; no other entry changes (R12). The model's own here: log
entry 1. -/
def Obligations.FadeStage : Prop :=
  (∀ (s : State) (o : HandOverOrder), s.inReset = false → s.BetweenPasses →
    ∃ u, exec (.outputPeriodExpiry o true) s = .next u ∧
      u.sources = s.sources.filterMap fun e => e.fadeStage (s.channel e.channel).fadeStep) ∧
  (∀ (e : SourceEntry) (step : Nat) (v : Int), e.held = .fading v →
    (step < v.natAbs → 0 < v → e.fadeStage step = some { e with held := .fading (v - step) }) ∧
    (step < v.natAbs → v < 0 → e.fadeStage step = some { e with held := .fading (v + step) }) ∧
    (v.natAbs ≤ step → e.declared = true → e.fadeStage step = some { e with held := .empty }) ∧
    (v.natAbs ≤ step → e.declared = false → e.fadeStage step = none)) ∧
  (∀ (e : SourceEntry) (step : Nat), (∀ v, e.held ≠ .fading v) → e.fadeStage step = some e)

/-! ### The merge pass -/

/-- OUTPUT_PERIOD_EXPIRY runs a whole pass: the count increments; the channel values are the sustained values plus the players'
contributions, saturated, with the age of the freshest VALID entry, at most 65535; the due players have started and every player
has stepped, or all are FREE where the stage becomes PARKED; the frame carries the stage, the factor and the latch the pass began
with, STROBE pulses once, and the next period begins at the expiry (R18, R19, R20, R34, R36, R47, R48, R55, R65, R75, R133). Where
the trip latch sets and the own request changes with it, the Level Sender is told. Everything else stays. The model's own here:
log entries 1, 3, 4 and 16. -/
def Obligations.PassPublishes : Prop :=
  ∀ (s : State) (o : HandOverOrder), s.inReset = false → s.BetweenPasses →
    ∃ u, exec (.outputPeriodExpiry o true) s = .next u ∧
      u.now = max s.now s.merge.periodDue ∧
      u.merge.periodCount = s.merge.periodCount + 1 ∧
      u.merge.periodDue = u.now + Config.periodBits s.cfg.timing.periodCode ∧
      u.strobes = s.strobes + 1 ∧ u.BetweenPasses ∧
      u.merge.lastChannels.count = u.merge.periodCount ∧
      (∀ c, c < 16 → u.merge.lastChannels.values.getD c 0 =
        max (-32767) (min 32767 (sustained s.cfg.channels (fadeTable s.cfg.channels s.sources) c +
          contributions s.store (startPlayers u.now s.players) c))) ∧
      (∀ c, c < 16 →
        let age := u.merge.lastChannels.ages.getD c 0
        let heard := fun (e : SourceEntry) (at_ : Count) => e ∈ u.sources ∧ e.channel = c ∧ (∃ v, e.held = .valid v) ∧
          e.lastUpdate = some at_
        age ≤ 65535 ∧ (∀ e at_, heard e at_ → age ≤ (u.merge.periodCount - at_).toNat) ∧
          (age = 65535 ∨ ∃ e at_, heard e at_ ∧ age = (u.merge.periodCount - at_).toNat)) ∧
      (let stepped := (startPlayers u.now s.players).map fun q => q.bind (Player.after s.store)
       (u.output.stage ≠ .parked ∨ s.output.stage = .parked → u.players = stepped) ∧
       (u.output.stage = .parked → s.output.stage ≠ .parked → u.players = List.replicate 8 none)) ∧
      u.merge.frame.number = u.merge.periodCount ∧ u.merge.frame.nodeState = s.node.state ∧
      u.merge.frame.mode = s.output.effective ∧ u.merge.frame.stage = s.output.stage ∧
      u.merge.frame.factor = s.output.factor ∧ u.merge.frame.trip = s.monitor.trip ∧
      u.sender = { s.sender with levelTimer := s.sender.levelTimer.map (· + 1), pending := u.sender.pending } ∧
      s.RequestTold u ∧
      u = { s with now := u.now, strobes := u.strobes, sources := u.sources, players := u.players, merge := u.merge,
                   monitor := u.monitor, output := u.output, tx := u.tx, line := u.line, announce := u.announce,
                   sender := u.sender, events := u.events }

/-- Each axis of a pass: the limited value moves toward the demand by at most the slew, the output is the scaled value clipped
to the axis's bound, and the clip flag says whether the clip cut it (R51 to R54). The model's own here: log entry 1. -/
def Obligations.AxisStages : Prop :=
  ∀ (s : State) (o : HandOverOrder) (a : Nat), s.inReset = false → s.BetweenPasses → a < 8 →
    ∃ u, exec (.outputPeriodExpiry o true) s = .next u ∧
      let axis := s.cfg.axes.getD a {}
      let before := s.merge.limited.getD a 0
      let after := u.merge.limited.getD a 0
      let demand := max (-32767) (min 32767
        ((axis.taps.map fun t => roundDiv (u.merge.lastChannels.values.getD t.channel 0 * t.gain) 4096).sum))
      let pre := roundDiv (after * s.output.factor) 4096
      (after - before).natAbs ≤ axis.slew ∧
      ((demand - before).natAbs ≤ axis.slew → after = demand) ∧
      (before + axis.slew < demand → after = before + axis.slew) ∧
      (demand < before - axis.slew → after = before - axis.slew) ∧
      u.merge.frame.outputs.getD a 0 = max (-(axis.clip : Int)) (min axis.clip pre) ∧
      (u.merge.frame.outputs.getD a 0).natAbs ≤ axis.clip ∧
      u.merge.frame.clips.getD a false = decide (axis.clip < pre.natAbs)

/-- The warn flag of an axis after a pass, by its output, the warn level and the hysteresis, and the flag before kept as the
previous one (R82). -/
def Obligations.WarnFlag : Prop :=
  ∀ (s : State) (o : HandOverOrder) (a : Nat), s.inReset = false → s.BetweenPasses → a < 8 →
    ∃ u, exec (.outputPeriodExpiry o true) s = .next u ∧
      let level := (s.cfg.axes.getD a {}).warn
      let hysteresis := (s.cfg.axes.getD a {}).hysteresis
      let output := u.merge.frame.outputs.getD a 0
      let before := (s.monitor.axes.getD a {}).warn
      let after := u.merge.frame.warns.getD a false
      (level = 0 → after = false) ∧
      (0 < level → before = false → (after = true ↔ level ≤ output.natAbs)) ∧
      (before = true → hysteresis < level → (after = true ↔ level - hysteresis ≤ output.natAbs)) ∧
      (0 < level → before = true → level ≤ hysteresis → (after = true ↔ output ≠ 0)) ∧
      (u.monitor.axes.getD a {}).warn = after ∧ (u.monitor.axes.getD a {}).prevWarn = before

/-- The hard count of an axis after a pass, by the stage the pass began with and the demand (R85). -/
def Obligations.HardCount : Prop :=
  ∀ (s : State) (o : HandOverOrder) (a : Nat), s.inReset = false → s.BetweenPasses → a < 8 →
    ∃ u, exec (.outputPeriodExpiry o true) s = .next u ∧
      let axis := s.cfg.axes.getD a {}
      let demand := axis.demand u.merge.lastChannels.values
      let before := (s.monitor.axes.getD a {}).hardCount
      let after := (u.monitor.axes.getD a {}).hardCount
      (s.output.stage = .parked → after = 0) ∧
      (s.output.stage ≠ .parked → demand.natAbs ≤ axis.hardLimit → after = 0) ∧
      (s.output.stage ≠ .parked → axis.hardLimit < demand.natAbs → before < axis.hardCount → after = before + 1) ∧
      (s.output.stage ≠ .parked → axis.hardLimit < demand.natAbs → before = axis.hardCount → after = axis.hardCount) ∧
      (before ≤ axis.hardCount → after ≤ axis.hardCount)

/-- The trip latch sets in a pass exactly when some hard count becomes equal to its setting, and the own request and the
effective mode are then PARK (R86, R88). The model's own here: log entry 1. -/
def Obligations.HardTripSets : Prop :=
  ∀ (s : State) (o : HandOverOrder), s.inReset = false → s.BetweenPasses → s.monitor.trip = false →
    ∃ u, exec (.outputPeriodExpiry o true) s = .next u ∧
      (u.monitor.trip = true ↔ ∃ a, a < 8 ∧ (s.monitor.axes.getD a {}).hardCount < (s.cfg.axes.getD a {}).hardCount ∧
        (u.monitor.axes.getD a {}).hardCount = (s.cfg.axes.getD a {}).hardCount) ∧
      (u.monitor.trip = true → u.output.ownRequest = .park ∧ u.output.effective = .park)

/-- The records of a pass: a WARN with the output for each axis whose warn flag has newly set, then a CLIP with the pre value for
each whose clip flag has, then, if the latch was clear, a HARD_TRIP with the demand for each whose hard count has become equal to
its setting, each kind in ascending axis order and all with the pass's count. Where the latch has set, MODE_CHANGED follows if the
mode was not PARK, and STAGE_CHANGED if the stage turns to EASING. The factor step that ends a ramp raises its STAGE_CHANGED
before all of these or after them, by the order of the hand-overs. No other record is raised (R69, R71, R75, R79, R83, R84, R86,
R88, R91). The model's own here: log entries 1 and 6. -/
def Obligations.PassRecords : Prop :=
  ∀ (s : State) (o : HandOverOrder), s.inReset = false → s.BetweenPasses →
    ∃ u, exec (.outputPeriodExpiry o true) s = .next u ∧
      let was := fun a => s.monitor.axes.getD a {}
      let is_ := fun a => u.monitor.axes.getD a {}
      let axis := fun a => s.cfg.axes.getD a {}
      let raise := fun (kind : EventKind) (value : Nat → Int) (a : Nat) =>
        ({ kind, count := u.merge.periodCount, channel := some a, value := some (value a) } : Record)
      let records :=
        ((List.range 8).filter fun a => (is_ a).warn && !(was a).warn).map
          (raise .warn fun a => u.merge.frame.outputs.getD a 0) ++
        ((List.range 8).filter fun a => (is_ a).clip && !(was a).clip).map
          (raise .clip fun a => roundDiv (u.merge.limited.getD a 0 * s.output.factor) 4096) ++
        ((List.range 8).filter fun a => !s.monitor.trip && decide ((was a).hardCount < (axis a).hardCount) &&
            decide ((is_ a).hardCount = (axis a).hardCount)).map
          (raise .hardTrip fun a => (axis a).demand u.merge.lastChannels.values)
      let vote := fun (kind : EventKind) (detail : Nat) (value : Nat) =>
        ({ kind, count := u.merge.periodCount, detail := some detail, value := some (value : Int) } : Record)
      let tripped := u.monitor.trip = true ∧ s.monitor.trip = false
      let turns := s.output.stage = .live ∨ s.output.stage = .rising
      let down := if s.output.effective = .park then s.cfg.parkStep else s.cfg.easeStep
      let rampEnds :=
        if s.output.stage = .easing ∧ s.output.factor ≤ down then [vote .stageChanged 2 0]
        else if s.output.stage = .rising ∧ 4096 ≤ s.output.factor + s.cfg.riseStep then [vote .stageChanged 0 4096]
        else []
      let mode := if s.output.effective = .park then [] else [vote .modeChanged 2 s.output.effective.code]
      (o = .stepFirst → u.events = (rampEnds ++ records ++
        (if tripped then mode ++ (if turns then [vote .stageChanged 1 u.output.factor] else []) else [])).foldl
          EventUnit.offer s.events) ∧
      (o = .monitorFirst → u.events = (records ++
        (if tripped then mode ++ (if turns then [vote .stageChanged 1 s.output.factor] else []) ++
            (if u.output.stage = .parked ∧ s.output.stage ≠ .parked then [vote .stageChanged 2 0] else [])
          else rampEnds)).foldl EventUnit.offer s.events)

/-- The factor step of a pass: EASING goes down by the park step while the effective mode is PARK and by the ease step
otherwise, to PARKED with every player freed; RISING goes up by the rise step, to LIVE; LIVE and PARKED make no step. The factor
and the stage after OUTPUT_PERIOD_EXPIRY are those of this step; where the trip latch sets in the same pass, the stage is turned
down after the step, or before it where the monitor's hand-over is taken first, and the step is then a park step (R71, R72, R73,
R75, R88). The model's own here: log entries 1 and 6. -/
def Obligations.FactorStep : Prop :=
  (∀ s : State,
    (s.output.stage = .live ∨ s.output.stage = .parked → s.stepFactor = s) ∧
    (s.output.stage = .easing → ∀ down, down = (if s.output.effective = .park then s.cfg.parkStep else s.cfg.easeStep) →
      (down < s.output.factor → s.stepFactor = { s with output := { s.output with factor := s.output.factor - down } }) ∧
      (s.output.factor ≤ down → s.stepFactor = { s with
        output := { s.output with factor := 0, stage := .parked }
        players := List.replicate 8 none
        events := s.events.offer { kind := .stageChanged, count := s.merge.periodCount, detail := some 2, value := some 0 } })) ∧
    (s.output.stage = .rising →
      (s.output.factor + s.cfg.riseStep < 4096 →
        s.stepFactor = { s with output := { s.output with factor := s.output.factor + s.cfg.riseStep } }) ∧
      (4096 ≤ s.output.factor + s.cfg.riseStep → s.stepFactor = { s with
        output := { s.output with factor := 4096, stage := .live }
        events := s.events.offer { kind := .stageChanged, count := s.merge.periodCount, detail := some 0, value := some 4096 } }))) ∧
  (∀ (s : State) (o : HandOverOrder), s.inReset = false → s.BetweenPasses →
    ∃ u, exec (.outputPeriodExpiry o true) s = .next u ∧
      let down := if s.output.effective = .park then s.cfg.parkStep else s.cfg.easeStep
      let stepped : Stage × Nat := match s.output.stage with
        | .easing => if s.output.factor ≤ down then (.parked, 0) else (.easing, s.output.factor - down)
        | .rising => if 4096 ≤ s.output.factor + s.cfg.riseStep then (.live, 4096)
            else (.rising, s.output.factor + s.cfg.riseStep)
        | stage => (stage, s.output.factor)
      (u.monitor.trip = s.monitor.trip → u.output.stage = stepped.1 ∧ u.output.factor = stepped.2) ∧
      (u.monitor.trip ≠ s.monitor.trip → o = .stepFirst → u.output.factor = stepped.2 ∧
        u.output.stage = if stepped.1 = .parked then .parked else .easing) ∧
      (u.monitor.trip ≠ s.monitor.trip → o = .monitorFirst →
        (s.output.stage = .parked → u.output.stage = .parked ∧ u.output.factor = s.output.factor) ∧
        (s.output.stage ≠ .parked → s.output.factor ≤ s.cfg.parkStep → u.output.stage = .parked ∧ u.output.factor = 0) ∧
        (s.output.stage ≠ .parked → s.cfg.parkStep < s.output.factor →
          u.output.stage = .easing ∧ u.output.factor = s.output.factor - s.cfg.parkStep)))

/-! ### Players -/

/-- A player at a pass. A due ARMED player becomes PLAYING; one that is PLAYING or FADING contributes its sample times its amplitude
times its level over 1024 to its own channel, and the contributions of a channel are summed exactly. Then it steps through its
profile: each sample is held for stretch passes, and the end of the profile frees a ONCE player and wraps a LOOP player; a FADING
player then loses one level and is FREE at level 0. An ARMED player does not step (R34, R35, R36, R37). -/
def Obligations.PlayerSteps : Prop :=
  (∀ (p : Player) (expiry : Nat),
    (p.state = .armed → p.start ≤ expiry → p.started expiry = { p with state := .playing }) ∧
    (p.state ≠ .armed ∨ expiry < p.start → p.started expiry = p)) ∧
  (∀ (st : Store) (players : List (Option Player)) (c : Nat),
    contributions st players c = ((players.filterMap fun q => q.filter fun p => p.channel = c).map (Player.contribution st)).sum) ∧
  (∀ (st : Store) (p : Player), p.state = .armed → p.contribution st = 0 ∧ p.after st = some p) ∧
  (∀ (st : Store) (p : Player) (pr : Profile), st.profile p.profile = some pr → p.state ≠ .armed →
    p.contribution st = roundDiv (st.samples.getD (pr.start + p.index) 0 * p.amplitude *
      (if p.state = .playing then 8 else p.fadeLevel : Nat)) 1024) ∧
  ∀ (st : Store) (p : Player) (pr : Profile), st.profile p.profile = some pr → p.state ≠ .armed → p.index < pr.length →
    ∃ moved : Option Player,
      (p.stretchCount + 1 ≠ pr.stretch → moved = some { p with stretchCount := p.stretchCount + 1 }) ∧
      (p.stretchCount + 1 = pr.stretch → p.index + 1 ≠ pr.length →
        moved = some { p with index := p.index + 1, stretchCount := 0 }) ∧
      (p.stretchCount + 1 = pr.stretch → p.index + 1 = pr.length → pr.endMode = .once → moved = none) ∧
      (p.stretchCount + 1 = pr.stretch → p.index + 1 = pr.length → pr.endMode = .loop →
        moved = some { p with index := 0, stretchCount := 0 }) ∧
      (p.state = .playing → p.after st = moved) ∧
      (p.state = .fading → p.fadeLevel ≤ 1 → p.after st = none) ∧
      (p.state = .fading → 1 < p.fadeLevel → p.after st = moved.map fun q => { q with fadeLevel := p.fadeLevel - 1 })

/-- A START item from a sender that is heard is dropped for the first condition of R30 that fails; else it arms the
lowest-numbered FREE player, or the victim of a steal: the player of lowest priority below the item's, then of earliest start
instant, then of lowest number (R30, R31, R32, R44). -/
def Obligations.StartItemArms : Prop :=
  ∀ (s : State) (source endInstant channel event profile amplitude priority lead : Nat),
    let u := applyStart source endInstant channel event profile amplitude priority lead s
    let drop := fun reason : DropReason => ({ s with events := s.events.offer {
      kind := .triggerDropped, count := s.merge.periodCount, station := some source, channel := some channel,
      detail := some reason.code, value := some event } } : State)
    let new : Player := {
      state := .armed, source, event, channel, profile, amplitude, priority, start := endInstant + 2500 * lead,
      index := 0, stretchCount := 0, fadeLevel := 8 }
    let accepted := s.output.stage ≠ .parked ∧ s.store.profile profile ≠ none ∧
      ∀ p, some p ∈ s.players → ¬(p.source = source ∧ p.event = event)
    (s.output.stage = .parked → u = drop .parked) ∧
    (s.output.stage ≠ .parked → s.store.profile profile = none → u = drop .noProfile) ∧
    (s.output.stage ≠ .parked → s.store.profile profile ≠ none →
      (∃ p, some p ∈ s.players ∧ p.source = source ∧ p.event = event) → u = drop .duplicate) ∧
    (accepted → ∀ n, s.players[n]? = some none → (∀ m, m < n → s.players[m]? ≠ some none) →
      u = { s with players := s.players.set n (some new) }) ∧
    (accepted → none ∉ s.players → (∀ p, some p ∈ s.players → priority ≤ p.priority) → u = drop .noPlayer) ∧
    (accepted → none ∉ s.players → ∀ n v, s.players[n]? = some (some v) → v.priority < priority →
      (∀ m q, s.players[m]? = some (some q) →
        v.priority < q.priority ∨ (v.priority = q.priority ∧ (v.start < q.start ∨ (v.start = q.start ∧ n ≤ m)))) →
      u = { s with
        players := s.players.set n (some new)
        events := s.events.offer {
          kind := .triggerDropped, count := s.merge.periodCount, station := some v.source, channel := some v.channel,
          detail := some 6, value := some v.event } })

/-- A CANCEL item frees the matching ARMED player, makes the matching PLAYING one FADING with level 8, leaves a FADING one as
it is, and touches nothing else (R33). -/
def Obligations.CancelItem : Prop :=
  ∀ (s : State) (source event n : Nat),
    applyCancel source event s = { s with players := (applyCancel source event s).players } ∧
    (∀ p, s.players[n]? = some (some p) →
      (¬(p.source = source ∧ p.event = event) → (applyCancel source event s).players[n]? = some (some p)) ∧
      (p.source = source → p.event = event →
        (p.state = .armed → (applyCancel source event s).players[n]? = some none) ∧
        (p.state = .playing →
          (applyCancel source event s).players[n]? = some (some { p with state := .fading, fadeLevel := 8 })) ∧
        (p.state = .fading → (applyCancel source event s).players[n]? = some (some p)))) ∧
    (s.players[n]? = some none → (applyCancel source event s).players[n]? = some none) ∧
    (applyCancel source event s).players.length = s.players.length

/-! ### The vote -/

/-- The effective mode is the most restrictive of the votes: the own request, each PRESENT or HOLDING peer's last header
request, each LOST peer's with EASE, and EASE while a required role has neither a PRESENT or HOLDING peer that declared it nor this
node as a talking node of that role; an ABSENT station does not vote (R2, R67, R68). -/
def Obligations.EffectiveModeIsTheMostRestrictive : Prop :=
  ∀ (s : State) (m : Mode),
    (s.output.ownRequest.code ≤ m.code ∧
      ((∃ r ∈ s.cfg.required, ¬(∃ p ∈ s.peers, p.self = false ∧ (p.link = .present ∨ p.link = .holding) ∧ p.role = some r) ∧
          ¬(s.cfg.station ≠ 0 ∧ s.cfg.role = some r)) → Mode.ease.code ≤ m.code) ∧
      ∀ p ∈ s.peers, p.self = false →
        (p.link = .present ∨ p.link = .holding → ∀ r, p.lastRequest = some r → r.code ≤ m.code) ∧
        (p.link = .lost → Mode.ease.code ≤ m.code ∧ ∀ r, p.lastRequest = some r → r.code ≤ m.code))
    ↔ s.formEffective.code ≤ m.code

/-- The two inputs of the own request from outside. HALT_N_CHANGE: while HALT_N is low the own request is PARK. ASK MODE sets the
local request by a code of 0, 1 or 2 and is answered OK, in every node state; a code above 2 is answered PARAM and changes
nothing. With either, the own request and the effective mode are what their inputs give at once, the stage is LIVE or RISING
exactly when the mode is LIVE on an ACTIVE node, and the factor does not move. MODE_CHANGED is raised exactly where the effective
mode changes, then STAGE_CHANGED exactly where the stage turns, and nothing else. A change of the own request asks a Level Sender
that is not SILENT for a LEVEL; without one the queue, the engine and the line stay. The settings, the tables, the players and the
monitor stay (R61, R62, R63, R65, R69, R71, R79, R118, R133). The model's own here: log entries 3 and 24. -/
def Obligations.HaltAndAskModeActOnTheVote : Prop :=
  (∀ (s : State) (t : Nat) (low : Bool), s.inReset = false → low ≠ s.haltLow →
    ∃ u, exec (.haltNChange t low) s = .next u ∧ u.haltLow = low ∧ u.now = max s.now t ∧
      (low = true → u.output.ownRequest = .park ∧ u.output.effective = .park) ∧
      u.Voted ∧ (u.output.stage = .live ∨ u.output.stage = .rising ↔ u.output.effective = .live ∧ s.node.state = .active) ∧
      u.output.localRequest = s.output.localRequest ∧ u.output.factor = s.output.factor ∧
      s.Raised u [] ∧ s.RequestTold u ∧ u.sender = { s.sender with pending := u.sender.pending } ∧
      u = { s with now := u.now, haltLow := u.haltLow, output := u.output, tx := u.tx, line := u.line,
                   announce := u.announce, sender := u.sender, events := u.events }) ∧
  (∀ (s : State) (t : Nat) (code : Byte), s.Open →
    (∀ m : Mode, m.code = code.toNat →
      ∃ u, exec (.askMode t code) s = .next u ∧ u.output.localRequest = m ∧ m.code ≤ u.output.ownRequest.code ∧
        u.Voted ∧ (u.output.stage = .live ∨ u.output.stage = .rising ↔ u.output.effective = .live ∧ s.node.state = .active) ∧
        u.output.factor = s.output.factor ∧
        s.Raised u [] ∧ s.RequestTold u ∧ u.sender = { s.sender with pending := u.sender.pending } ∧
        u.port = s.port.answered [0] ∧
        u = { s with now := max s.now t, output := u.output, tx := u.tx, line := u.line, announce := u.announce,
                     sender := u.sender, port := u.port, events := u.events }) ∧
    (2 < code.toNat →
      exec (.askMode t code) s = .next { s with
        now := max s.now t
        port := s.port.answered [3] }))

/-! ### The local port -/

/-- Every local port command taken while the decoder waits is answered. A result other than OK changes nothing but the answer.
The checks come in their order: BUSY first, for every command but STATUS, while READY is low; then STATE, for the configuration
commands and JOIN outside CONFIG, for LEAVE outside JOINING and ACTIVE, for QUIET, SPEAK, FIRE and CANCEL outside ACTIVE or on a
listener, and for POST outside JOINING and ACTIVE or on a listener. A command byte that names no command is PARAM. SDO
carries 0 until the command is taken, then the response from its first byte on, each byte most significant bit first, and 0 after
the last (R155 to R161). The model's own here: log entries 3, 7 and 8. -/
def Obligations.ChecksInTheirOrder : Prop :=
  (∀ (c : Instr) (bytes : List Byte) (s : State), c.wellFormed = true → encodeTransaction c = some bytes →
    s.inReset = false → s.port.decoder = .waiting →
    ∃ u code rest result data, bytes = code :: rest ∧ exec c s = .next u ∧ u.port.decoder = .givingResponse ∧
      u.port.response = result :: data ∧
      (∀ k, s.sdo k = 0 ∧ u.sdo k = (result :: data).getD k 0 ∧
        ∀ i, i < 8 → (u.sdoBits k)[i]? = some (((result :: data).getD k 0).getLsbD (7 - i))) ∧
      (result ≠ 0 → data = [] ∧ u = { s with now := u.now, port := s.port.answered [result] }) ∧
      (s.port.ready = false → code.toNat ≠ 0x30 → result = 1) ∧
      (s.port.ready = true →
        ((1 ≤ code.toNat ∧ code.toNat ≤ 8 ∨ code.toNat = 0x10) ∧ s.node.state ≠ .config ∨
          code.toNat = 0x11 ∧ s.node.state ≠ .joining ∧ s.node.state ≠ .active ∨
          code.toNat ∈ [0x13, 0x14, 0x21, 0x22] ∧ (s.node.state ≠ .active ∨ s.cfg.station = 0) ∨
          code.toNat = 0x20 ∧ (s.node.state ≠ .joining ∧ s.node.state ≠ .active ∨ s.cfg.station = 0)) →
        result = 2)) ∧
  (∀ (s : State) (code : Byte), s.Open →
    exec (.unknownCommand code) s = .next { s with port := s.port.answered [3] })

/-- SET STATION in CONFIG stores station, role and seed, moves the SELF marker, and clears the counters of the row that becomes
SELF; a station above 15, or one of 1..15 with a role outside 1..5, is answered PARAM (R158, R92). -/
def Obligations.SetStationStores : Prop :=
  ∀ (s : State) (station role : Byte) (seed : Word16), s.Open → s.node.state = .config →
    (station.toNat ≤ 15 → (station.toNat = 0 ∨ 1 ≤ role.toNat ∧ role.toNat ≤ 5) →
      ∃ u, exec (.setStation station role seed) s = .next u ∧
        u.cfg = { s.cfg with station := station.toNat, role := u.cfg.role, seed } ∧
        (station.toNat = 0 → u.cfg.role = none) ∧ (station.toNat ≠ 0 → roleCode u.cfg.role = role.toNat) ∧
        (∀ st, 1 ≤ st → st ≤ 15 → st ≠ station.toNat → u.peerAt st = { s.peerAt st with self := false }) ∧
        (1 ≤ station.toNat → u.peerAt station.toNat =
          { s.peerAt station.toNat with self := true, gaps := 0, losses := 0, undeclared := 0 }) ∧
        u.port = s.port.answered [0] ∧
        u = { s with cfg := u.cfg, peers := u.peers, port := u.port }) ∧
    ((15 < station.toNat ∨ 1 ≤ station.toNat ∧ (role.toNat = 0 ∨ 5 < role.toNat)) →
      exec (.setStation station role seed) s = .next { s with
        port := s.port.answered [3] })

/-- SET TIMING, SET STAGE and ROUTE ALERTS in CONFIG. SET TIMING is answered OK and brings each setting into its range; the silence
limit is at least twice the refresh interval and the forget limit at least twice the silence limit. The three steps and the required
roles are replaced, each step in 1..4096, a role required exactly when its flag is set; the route of the one class is replaced, and
a class or a route that names nothing is PARAM (R47, R77, R94, R135, R141, R158, R171). -/
def Obligations.TimingStageAndRoutesReplaced : Prop :=
  (∀ (s : State) (period levelInterval holdAfter refresh : Byte) (silence forget : Word16) (stale window persist : Byte),
    s.Open → s.node.state = .config →
    ∃ u, exec (.setTiming period levelInterval holdAfter refresh silence forget stale window persist) s = .next u ∧
      u.cfg.timing.periodCode = min 3 period.toNat ∧
      u.cfg.timing.levelInterval = min 16 (max 1 levelInterval.toNat) ∧
      u.cfg.timing.holdAfter = max 1 holdAfter.toNat ∧
      u.cfg.timing.refresh = min 250 (max 5 refresh.toNat) ∧
      u.cfg.timing.silence = max (2 * u.cfg.timing.refresh) (min 1000 (max 10 silence.toNat)) ∧
      u.cfg.timing.forget = max (2 * u.cfg.timing.silence) (min 10000 (max 100 forget.toNat)) ∧
      u.cfg.timing.stale = min 100 (max 1 stale.toNat) ∧
      u.cfg.timing.window = min 16 (max 4 window.toNat) ∧
      (u.cfg.timing.persist = true ↔ persist ≠ 0) ∧
      u = { s with
        cfg := { s.cfg with timing := u.cfg.timing }
        port := s.port.answered [0] }) ∧
  (∀ s : State, s.Open → s.node.state = .config →
    (∀ (ease park rise : Word16) (roles : Byte), ∃ u, exec (.setStage ease park rise roles) s = .next u ∧
      u.cfg.easeStep = max 1 (min 4096 ease.toNat) ∧ u.cfg.parkStep = max 1 (min 4096 park.toNat) ∧
      u.cfg.riseStep = max 1 (min 4096 rise.toNat) ∧
      (∀ r : Role, r ∈ u.cfg.required ↔ roles.getLsbD r.code = true) ∧
      u = { s with
        cfg := { s.cfg with
          easeStep := u.cfg.easeStep, parkStep := u.cfg.parkStep, riseStep := u.cfg.riseStep, required := u.cfg.required }
        port := s.port.answered [0] }) ∧
    (∀ (cls route : Byte),
      (∀ (k : EventClass) (r : Route), EventClass.ofCode cls.toNat = some k → Route.ofCode route.toNat = some r →
        ∃ u, exec (.routeAlerts cls route) s = .next u ∧ u.events.routes.of k = r ∧
          (∀ k', k' ≠ k → u.events.routes.of k' = s.events.routes.of k') ∧
          u = { s with
            events := { s.events with routes := u.events.routes }
            port := s.port.answered [0] }) ∧
      ((4 < cls.toNat ∨ 2 < route.toNat) → exec (.routeAlerts cls route) s = .next { s with
        port := s.port.answered [3] })))

/-- DEFINE CHANNEL in CONFIG replaces the record of the named channel, each setting brought into its range, and no other; a
channel above 15 or a policy above 2 is answered PARAM (R13). -/
def Obligations.DefineChannelReplacesTheRecord : Prop :=
  ∀ (s : State) (channel policy produce rank : Byte) (deadband fadeStep : Word16),
    s.Open → s.node.state = .config → s.cfg.channels.length = 16 →
    (channel.toNat ≤ 15 → policy.toNat ≤ 2 →
      ∃ u, exec (.defineChannel channel policy produce rank deadband fadeStep) s = .next u ∧
        Policy.ofCode policy.toNat = some (u.channel channel.toNat).policy ∧
        ((u.channel channel.toNat).produce = true ↔ produce ≠ 0) ∧
        (u.channel channel.toNat).rank = min 7 rank.toNat ∧
        (u.channel channel.toNat).deadband = min 4095 deadband.toNat ∧
        (u.channel channel.toNat).fadeStep = max 1 (min 32767 fadeStep.toNat) ∧
        (∀ c, c ≠ channel.toNat → u.channel c = s.channel c) ∧
        u = { s with
          cfg := { s.cfg with channels := u.cfg.channels }
          port := s.port.answered [0] }) ∧
    ((15 < channel.toNat ∨ 2 < policy.toNat) →
      exec (.defineChannel channel policy produce rank deadband fadeStep) s = .next { s with
        port := s.port.answered [3] })

/-- DEFINE AXIS in CONFIG replaces the record of the named axis, with the used slots as its taps and every setting brought into
its range, clears that axis's four flags and hard count, and leaves the limited value and the other axes (R50, R80, R81). -/
def Obligations.DefineAxisReplacesTheRecord : Prop :=
  ∀ (s : State) (axis tapCount : Byte) (slot0 slot1 slot2 slot3 : TapSlot)
    (slew clip warn hysteresis hardLimit : Word16) (hardCount : Byte),
    s.Open → s.node.state = .config → s.cfg.axes.length = 8 → s.monitor.axes.length = 8 →
    let used := [slot0, slot1, slot2, slot3].take tapCount.toNat
    (axis.toNat ≤ 7 → tapCount.toNat ≤ 4 → (∀ t ∈ used, t.channel.toNat ≤ 15) →
      ∃ u, exec (.defineAxis axis tapCount slot0 slot1 slot2 slot3 slew clip warn hysteresis hardLimit hardCount) s
          = .next u ∧
        u.cfg.axes.getD axis.toNat {} = {
          taps := used.map fun t => { channel := t.channel.toNat, gain := t.gain.toInt }
          slew := max 1 (min 65534 slew.toNat)
          clip := max 1 (min 32767 clip.toNat)
          warn := min 32767 warn.toNat
          hysteresis := min 4095 hysteresis.toNat
          hardLimit := max 1 (min 32767 hardLimit.toNat)
          hardCount := max 1 hardCount.toNat } ∧
        (∀ a, a ≠ axis.toNat → u.cfg.axes.getD a {} = s.cfg.axes.getD a {}) ∧
        u.monitor.axes.getD axis.toNat {} = { warn := false, prevWarn := false, clip := false, prevClip := false, hardCount := 0 } ∧
        (∀ a, a ≠ axis.toNat → u.monitor.axes.getD a {} = s.monitor.axes.getD a {}) ∧
        u = { s with
          cfg := { s.cfg with axes := u.cfg.axes }
          monitor := { s.monitor with axes := u.monitor.axes }
          port := s.port.answered [0] }) ∧
    ((7 < axis.toNat ∨ 4 < tapCount.toNat ∨ ∃ t ∈ used, 15 < t.channel.toNat) →
      exec (.defineAxis axis tapCount slot0 slot1 slot2 slot3 slew clip warn hysteresis hardLimit hardCount) s
        = .next { s with port := s.port.answered [3] })

/-- STORE PROFILE in CONFIG: the checks in the order of R25, and when they pass the write begins and the operation blocks (R25,
R157). The model's own here: log entry 8. -/
def Obligations.StoreProfileChecksAndBegins : Prop :=
  ∀ (s : State) (profile stretch endMode : Byte) (length : Word16) (samples : List Word16),
    s.Open → s.node.state = .config → samples.length = sampleCount length →
    let answered := fun result : Byte => exec (.storeProfile profile stretch endMode length samples) s
      = .next { s with port := s.port.answered [result] }
    let named := profile.toNat ≤ 15 ∧ 1 ≤ length.toNat ∧ length.toNat ≤ 256 ∧ endMode.toNat ≤ 1
    (¬named → answered 3) ∧
    (named → s.store.profile profile.toNat ≠ none → answered 3) ∧
    (named → s.store.profile profile.toNat = none → 1024 < s.store.nextFree + length.toNat → answered 4) ∧
    (named → s.store.profile profile.toNat = none → s.store.nextFree + length.toNat ≤ 1024 →
      ∃ w : ProfileWrite,
        exec (.storeProfile profile stretch endMode length samples) s = .next { s with
          store := { s.store with writing := some w }
          port := { s.port with
            decoder := .givingResponse, response := [0], offered := 0, blocking := .storeProfile } } ∧
        w.number = profile.toNat ∧ w.stretch = max 1 (min 16 stretch.toNat) ∧
        (w.endMode = .loop ↔ endMode.toNat = 1) ∧ w.samples.length = length.toNat ∧
        ∀ i, i < length.toNat → w.samples.getD i 0 = max (-32767) (samples.getD i 0).toInt)

/-- PROFILE_WRITE_COMPLETE defines the profile at the next free position, advances it by the length, puts the samples there and
nowhere else, and READY rises. CLEAR PROFILES is taken in CONFIG and answered STATE in every other node state, with no effect; in
CONFIG every profile record becomes undefined and the next free position 0 (R24, R25, R26, R157). -/
def Obligations.ProfilesAreDefinedAndCleared : Prop :=
  (∀ (s : State) (w : ProfileWrite), s.inReset = false → s.store.writing = some w → w.number ≤ 15 →
    s.store.profiles.length = 16 → s.store.nextFree ≤ s.store.samples.length →
    ∃ u, exec .profileWriteComplete s = .next u ∧
      u.store.profile w.number = some {
        start := s.store.nextFree, length := w.samples.length, stretch := w.stretch, endMode := w.endMode } ∧
      (∀ n, n ≠ w.number → u.store.profile n = s.store.profile n) ∧
      u.store.nextFree = s.store.nextFree + w.samples.length ∧ u.store.writing = none ∧
      (∀ i, i < w.samples.length → u.store.samples.getD (s.store.nextFree + i) 0 = w.samples.getD i 0) ∧
      (∀ j, j < s.store.nextFree ∨ s.store.nextFree + w.samples.length ≤ j →
        u.store.samples.getD j 0 = s.store.samples.getD j 0) ∧
      u = { s with store := u.store, port := { s.port with blocking := .none, ready := true } }) ∧
  (∀ s : State, s.Open →
    (s.node.state ≠ .config → exec .clearProfiles s = .next { s with
      port := s.port.answered [2] }) ∧
    (s.node.state = .config → ∃ u, exec .clearProfiles s = .next u ∧
      (∀ n, u.store.profile n = none) ∧ u.store.nextFree = 0 ∧
      u = { s with
        store := { s.store with profiles := u.store.profiles, nextFree := 0 }
        port := s.port.answered [0] }))

/-! ### The session -/

/-- JOIN in CONFIG on a talking node: the node is JOINING, the receive path opens, the quiet count starts from 0, or at the end of
the carrier that stands, the backoff register is seeded, with 1 for a seed value of 0, and the sequence number is 0, the SELF row
and the own EMPTY entries stand, the announce group is queued, page i with the declarations from the one numbered 4i on, at most
four, and its place in the group, the engine waits for the gap, and the operation blocks. In a pass the Source Table stays as it is
until the pass ends: the own entries are held behind what the pass holds already and then join the table, and all else is done at
once. On a listener the join window starts at once and nothing is queued. READY stays as it is until SEL_N rises (R4, R49, R69,
R92, R97, R111, R112, R117, R119, R138, R142, R157). The model's own here: log entries 1, 3 and 31. -/
def Obligations.JoinStartsTheSession : Prop :=
  ∀ (s : State) (t : Nat), s.Open → s.node.state = .config → s.sender.state = .silent → s.tx.entries = [] →
    s.tx.engine = .off → s.sources = [] → s.peers.length = 15 → s.cfg.station ≤ 15 →
    ∃ u, exec (.join t) s = .next u ∧ u.now = max s.now t ∧ u.node.state = .joining ∧ u.line.receiveOpen = true ∧
      u.line.echoFails = 0 ∧ u.tx.sequence = 0 ∧ u.Voted ∧ u.output.factor = s.output.factor ∧
      (let seeded := s.cfg.seed ^^^ BitVec.ofNat 16 (s.cfg.station * 0x1111)
       u.line = { s.line with
         receiveOpen := true, echoFails := 0, backoffReg := if seeded = 0 then 1 else seeded
         quiet := if s.line.run = none ∧ s.line.drive = .idle then .counting u.now else .stopped
         wait := if s.cfg.station = 0 then s.line.wait else .none }) ∧
      u.port.response = [0] ∧ u.port.decoder = .givingResponse ∧
      s.Raised u [{ kind := .nodeState, count := s.merge.periodCount, detail := some 1, value := some 0 }] ∧
      (s.cfg.station ≠ 0 →
        u.tx = { s.tx with
          entries := u.tx.entries, engine := .working .defer, sequence := 0, last := (s.tx.last + u.tx.entries.length) % 8 } ∧
        u.announce = { s.announce with state := .queued, waiting := false } ∧
        u.port = { s.port.answered [0] with blocking := .join } ∧ u.node = { s.node with state := .joining } ∧
        s.OwnGroup u.tx.entries ∧
        (u.tx.entries.flatMap fun e => match e.body with
          | .page _ _ _ _ decls => decls
          | _ => []) = s.ownDeclarations ∧
        u.peerAt s.cfg.station =
          { s.peerAt s.cfg.station with link := .present, role := s.cfg.role, declared := s.ownDeclarations } ∧
        (∀ st, st ≠ s.cfg.station → u.peerAt st = s.peerAt st) ∧
        (let own := s.ownDeclarations.map fun d => ({
           station := s.cfg.station, channel := d.1, held := .empty, rank := d.2, declared := true,
           lastUpdate := none } : SourceEntry)
         (s.merge.pass = none → u.sources = own ∧ u.merge = s.merge) ∧
         (s.merge.pass ≠ none → u.sources = [] ∧
           u.merge = { s.merge with held := s.merge.held ++ [.ownEntries] } ∧
           (s.pending = [] → ∃ v, step { u with merge := s.merge } = .next v ∧ v.merge.pass = none ∧
             (s.merge.held = [] → v.sources = []) ∧
             ((∀ e ∈ v.sources, e.station ≠ s.cfg.station) → step u = .next { v with sources := v.sources ++ own }))))) ∧
      (s.cfg.station = 0 →
        u.node = { s.node with state := .joining, window := some u.now } ∧ u.tx = { s.tx with sequence := 0 } ∧
        u.port = s.port.answered [0] ∧ u.announce = s.announce ∧
        u.peers = s.peers ∧ u.sources = [] ∧ u.merge = s.merge) ∧
      u = { s with now := u.now, line := u.line, peers := u.peers, announce := u.announce, sources := u.sources,
                   merge := u.merge, output := u.output, tx := u.tx, node := u.node, port := u.port, events := u.events }

/-- LEAVE in JOINING or ACTIVE on a talking node: the node is LEAVING, a LIVE or RISING stage turns to EASING, the Level Sender
falls silent, of the queue only the entries that have begun stay, as they were, the BYE joins behind them, and the operation blocks
until LEAVE completion. A begun entry runs on: a working engine keeps its step, a SUSPENDING one works on in its step, and the line
stays; an IDLE or SUSPENDED engine turns to its entry. The announce state stays with a page that has begun, and is none without one.
On a listener between passes the stage turns too, with its record, and LEAVE completion follows at once with all its effects; in a
pass it is held and made as the pass ends (R42, R52, R69, R71, R76, R78, R81, R93, R105, R113, R129, R131). The model's own here: log
entries 1, 3, 12, 13, 18, 26 and 31. -/
def Obligations.LeaveEndsTheSession : Prop :=
  ∀ (s : State) (t : Nat), s.Open → s.node.state = .joining ∨ s.node.state = .active →
    (s.cfg.station ≠ 0 → ∃ u, exec (.leave t) s = .next u ∧ u.now = max s.now t ∧
      u.node = { s.node with state := .leaving, window := none } ∧
      u.sender = { s.sender with state := .silent, levelTimer := none, refresh := none, pending := none } ∧
      u.port = { s.port.answered [0] with blocking := .leave } ∧
      (let kept := s.tx.entries.filter (·.begun)
       let left : State := { s with
         output := u.output
         tx := { s.tx with entries := kept ++ [{ body := .bye }], last := (s.tx.current + kept.length + 1) % 8 }
         announce := { s.announce with
           remembered := false, waiting := false, state := if kept.any (·.isPage) then s.announce.state else .none } }
       u.tx.entries.map (·.body) = kept.map (·.body) ++ [.bye] ∧ u.announce.remembered = false ∧ u.announce.waiting = false ∧
       (s.tx.engine = .idle ∨ s.tx.engine = .suspended → left.TurnsToDefer u) ∧
       (∀ w, s.tx.engine = .working w ∨ s.tx.engine = .suspending w →
         u.tx = { left.tx with engine := .working w } ∧ u.announce = left.announce ∧ u.line = s.line) ∧
       (s.tx.engine = .off ∨ s.tx.engine = .stopped → u.tx = left.tx ∧ u.announce = left.announce ∧ u.line = s.line)) ∧
      u.Voted ∧ u.output.stage ≠ .live ∧ u.output.stage ≠ .rising ∧ u.output.factor = s.output.factor ∧
      s.Raised u [{ kind := .nodeState, count := s.merge.periodCount, detail := some 3,
                    value := some (s.node.state.code : Int) }] ∧
      u = { s with now := u.now, line := u.line, announce := u.announce, output := u.output, tx := u.tx,
                   sender := u.sender, node := u.node, port := u.port, events := u.events }) ∧
    (s.cfg.station = 0 → s.merge.pass = none → ∃ u, exec (.leave t) s = .next u ∧ u.now = max s.now t ∧
      s.SessionEnded u ∧
      u.port = { s.port.answered [0] with
        blocking := if s.port.blocking = .storeProfile then .storeProfile else .none } ∧
      (let record := fun (kind : EventKind) (detail : Nat) (value : Int) =>
        ({ kind, count := s.merge.periodCount, detail := some detail, value := some value } : Record)
       let turned := s.output.stage = .live ∨ s.output.stage = .rising
       s.Raised u (record .nodeState 3 s.node.state.code ::
         (if turned then [record .stageChanged 1 s.output.factor] else []) ++ [record .nodeState 0 3])) ∧
      u = { s with now := u.now, line := u.line, fifo := [], peers := u.peers, announce := u.announce, sources := [],
                   players := u.players, merge := u.merge, output := u.output, monitor := u.monitor, tx := u.tx,
                   sender := u.sender, node := u.node, port := u.port, events := u.events }) ∧
    (s.cfg.station = 0 → s.merge.pass ≠ none → ∃ u, exec (.leave t) s = .next u ∧ u.now = max s.now t ∧
      u.node = { s.node with state := .leaving, window := none, leaveDue := true } ∧
      u.merge = { s.merge with held := s.merge.held ++ [.leaveCompletion] } ∧ u.port = s.port.answered [0] ∧ u.Voted ∧
      { u with merge := s.merge }.MadeAsThePassEnds .leaveCompletion .leaveCompletion (fun _ => False) ∧
      { s with announce := { s.announce with remembered := false } }.RequestTold u ∧
      u.sender = { s.sender with pending := u.sender.pending } ∧
      u.output.stage ≠ .live ∧ u.output.stage ≠ .rising ∧ u.output.factor = s.output.factor ∧
      s.Raised u [{ kind := .nodeState, count := s.merge.periodCount, detail := some 3,
                    value := some (s.node.state.code : Int) }] ∧
      u = { s with now := u.now, line := u.line, announce := u.announce, merge := u.merge, output := u.output, tx := u.tx,
                   sender := u.sender, node := u.node, port := u.port, events := u.events })

/-- LEAVE completion: the node is in CONFIG with the Source Table, the queue and the Receive FIFO empty, every player FREE, every
limited value, flag and hard count 0, the factor 0 and the stage PARKED, the records cleared but for their counters, the receive
path closed and a blocking LEAVE ended; settings, profiles, counters, local request, last frame and trip latch stay. NODE_STATE is
raised, then what the vote and the parked stage raise. While a pass is in progress it is held until the end of that pass, and then
made behind what the pass held before it. With no LEAVE completion due nothing happens (R4, R42, R49, R52, R69, R70, R78, R81, R93,
R113, R130). The model's own here: log entries 1, 12, 13, 18 and 31. -/
def Obligations.LeaveCompletionEmptiesTheNode : Prop :=
  ∀ s : State, s.inReset = false →
    (s.node.leaveDue = true → s.node.state = .leaving → s.merge.pass = none →
      ∃ u, exec .leaveCompletion s = .next u ∧
        s.SessionEnded u ∧
        (s.port.blocking = .leave → u.port = { s.port with blocking := .none, ready := true }) ∧
        (s.port.blocking ≠ .leave → s.port.blocking ≠ .join → u.port = s.port) ∧
        s.Raised u [{ kind := .nodeState, count := s.merge.periodCount, detail := some 0, value := some 3 }] ∧
        u = { s with line := u.line, fifo := u.fifo, peers := u.peers, announce := u.announce, sources := u.sources,
                     players := u.players, merge := u.merge, output := u.output, monitor := u.monitor, tx := u.tx,
                     sender := u.sender, node := u.node, port := u.port, events := u.events }) ∧
    (s.node.leaveDue = true → s.node.state = .leaving → s.merge.pass ≠ none →
      let held : State := { s with merge := { s.merge with held := s.merge.held ++ [.leaveCompletion] } }
      exec .leaveCompletion s = .next held ∧ s.MadeAsThePassEnds .leaveCompletion .leaveCompletion fun _ => False) ∧
    (s.node.leaveDue = false ∨ s.node.state ≠ .leaving → exec .leaveCompletion s = .next s)

/-- RESTART and the release of RST_N put every block to its state after the reset: RESTART keeps the settings, the profiles and
the routes, power-on reset puts them to their defaults; the own request is EASE, or PARK while HALT_N is low. From the fall of
RST_N, READY is low, SDO carries 0, the alert lines are deasserted, a drive is cut, and a pass and a transaction are abandoned;
until the release no command but POWER_ON_RESET changes anything but the levels at the pins and the line. A transaction that RST_N
has cut or that begins while it is low is ignored until SEL_N has risen, after the release too (R49, R70, R140, R155, R159, R164).
The model's own here: log entries 3, 7, 14, 15, 28 and 36. -/
def Obligations.ResetsPutTheNodeBack : Prop :=
  (∀ (s : State) (t : Nat),
    let mode := if s.haltLow then Mode.park else Mode.ease
    let fresh := fun (u : State) (period : Nat) =>
      u.now = max s.now t ∧ u.inReset = false ∧ u.haltLow = s.haltLow ∧ u.strobes = s.strobes ∧ u.fifo = [] ∧
      u.announce = State.reset.announce ∧ u.sources = [] ∧ u.players = List.replicate 8 none ∧
      u.merge = { State.reset.merge with
        periodDue := max s.now t + period, frame := { State.reset.merge.frame with mode } } ∧
      u.output = { localRequest := .ease, ownRequest := mode, effective := mode, stage := .parked, factor := 0 } ∧
      u.monitor = State.reset.monitor ∧ u.tx = State.reset.tx ∧ u.sender = State.reset.sender ∧
      u.node = State.reset.node ∧ u.counters = State.reset.counters ∧ u.line.drive = .idle ∧
      u.line = { State.reset.line with run := s.line.run.map fun _ => { received := false } } ∧
      u.events.queue = [] ∧ u.events.dropped = 0
    (∃ u, exec (.powerOnReset t) s = .next u ∧ fresh u 10000 ∧ u.cfg = State.reset.cfg ∧ u.store = State.reset.store ∧
      u.peers = State.reset.peers ∧
      u.port = { State.reset.port with decoder := if s.port.decoder = .waiting then .waiting else .ignoring } ∧
      u.events.routes = State.reset.events.routes) ∧
    (s.Open → ∃ u, exec (.restart t) s = .next u ∧ fresh u (Config.periodBits s.cfg.timing.periodCode) ∧ u.cfg = s.cfg ∧
      u.store = { s.store with writing := none } ∧ u.events.routes = s.events.routes ∧
      u.port = { s.port.answered [0] with blocking := .none } ∧
      ∀ st, 1 ≤ st → st ≤ 15 → u.peerAt st = { self := st == s.cfg.station })) ∧
  (∀ s : State, ∃ u, exec .rstNFall s = .next u ∧ u.inReset = true ∧ u.port.ready = false ∧ u.alertA = false ∧
    u.alertB = false ∧ u.line.drive = .idle ∧ u.merge.pass = none ∧ u.store.writing = none ∧ u.strobes = s.strobes ∧
    u.cfg = s.cfg ∧ u.haltLow = s.haltLow ∧
    u.port = { State.reset.port with
      ready := false, decoder := if s.port.decoder = .waiting then .waiting else .ignoring } ∧
    ∀ (c : Instr) (v : State), (∀ t, c ≠ .powerOnReset t) → exec c u = .next v →
      v = { u with now := v.now, haltLow := v.haltLow, line := { u.line with run := v.line.run }
                   port := { u.port with decoder := v.port.decoder } } ∧
      (∀ n, c = .transactionEnd n → v.port.decoder = .waiting) ∧
      (encodeTransaction c ≠ none → v.port.decoder = .ignoring) ∧ ∀ k, u.sdo k = 0 ∧ v.sdo k = 0) ∧
  ∀ s : State, s.inReset = false → s.port.decoder = .ignoring →
    (∀ c : Instr, encodeTransaction c ≠ none → ∃ t, exec c s = .next { s with now := t }) ∧
    (∀ n : Nat, exec (.transactionEnd n) s = .next { s with port := { s.port with decoder := .waiting } }) ∧
    ∀ k, s.sdo k = 0

/-- QUIET and SPEAK on an ACTIVE talking node. QUIET: an idle engine is SUSPENDED at once, a working one goes on SUSPENDING, any
other state stays. SPEAK: a SUSPENDING engine works on in its step; a SUSPENDED one is IDLE with nothing queued, and with an entry
it begins its drive at once where the gap has ended on a free line, and waits in DEFER while the quiet count stands below 64 or
carrier is on the line (R121, R126, R127, R138, R139, R159). The model's own here: log entries 3 and 26. -/
def Obligations.QuietAndSpeak : Prop :=
  ∀ s : State, s.Open → s.node.state = .active → s.cfg.station ≠ 0 →
    (∃ e, exec .quiet s = .next { s with
        node := { s.node with quiet := true }, tx := { s.tx with engine := e }, port := s.port.answered [0] } ∧
      (s.tx.engine = .idle → e = .suspended) ∧ (∀ w, s.tx.engine = .working w → e = .suspending w) ∧
      (s.tx.engine ≠ .idle → (∀ w, s.tx.engine ≠ .working w) → e = s.tx.engine)) ∧
    (∀ t : Nat, ∃ u, exec (.speak t) s = .next u ∧ u.node = { s.node with quiet := false } ∧
      (∀ w, s.tx.engine = .suspending w → u.tx = { s.tx with engine := .working w } ∧ u.line = s.line ∧ u.announce = s.announce) ∧
      (s.tx.engine = .suspended → s.tx.entries = [] →
        u.tx = { s.tx with engine := .idle } ∧ u.line = s.line ∧ u.announce = s.announce) ∧
      (s.tx.engine = .suspended → s.tx.entries ≠ [] → s.TurnsToDefer u) ∧
      (s.tx.engine ≠ .suspended → (∀ w, s.tx.engine ≠ .suspending w) →
        u.tx = s.tx ∧ u.line = s.line ∧ u.announce = s.announce) ∧
      u = { s with now := max s.now t, line := u.line, announce := u.announce, tx := u.tx, node := u.node,
                   port := s.port.answered [0] })

/-! ### What a board says -/

/-- POST in JOINING or ACTIVE on a talking node: every named channel produced, each takes the last value given for it and no
other channel changes; a count outside 1..16 or a channel not produced is PARAM, and nothing is posted (R160). The model's own
here: log entry 8. -/
def Obligations.PostStoresTheValues : Prop :=
  ∀ (s : State) (count : Byte) (pairs : List (Byte × Word16)), s.Open →
    s.node.state = .joining ∨ s.node.state = .active → s.cfg.station ≠ 0 → s.sender.posted.length = 16 →
    pairs.length = pairCount count →
    (1 ≤ count.toNat → count.toNat ≤ 16 →
      (∀ p ∈ pairs, p.1.toNat ≤ 15 ∧ (s.channel p.1.toNat).produce = true) →
      ∃ u, exec (.post count pairs) s = .next u ∧
        (∀ before after c v, pairs = before ++ (c, v) :: after → (∀ p ∈ after, p.1 ≠ c) →
          u.sender.posted.getD c.toNat none = some (max (-32767) v.toInt)) ∧
        (∀ c, (∀ p ∈ pairs, p.1.toNat ≠ c) → u.sender.posted.getD c none = s.sender.posted.getD c none) ∧
        u = { s with sender := { s.sender with posted := u.sender.posted }, port := s.port.answered [0] }) ∧
    (count.toNat = 0 ∨ 16 < count.toNat ∨ (∃ p ∈ pairs, 15 < p.1.toNat ∨ (s.channel p.1.toNat).produce = false) →
      exec (.post count pairs) s = .next { s with port := s.port.answered [3] })

/-- FIRE and CANCEL on an ACTIVE talking node: a TRIGGER entry of the one item joins behind the others with the stale limit as
its deadline, and an idle engine turns to it; a full queue answers FULL; a FIRE with a channel or profile above 15 or a priority
above 3 is PARAM (R117, R120, R161). The model's own here: log entry 3. -/
def Obligations.FireAndCancelQueueATrigger : Prop :=
  ∀ (s : State) (t : Nat) (c : Instr) (item : TriggerItem), s.Open → s.node.state = .active → s.cfg.station ≠ 0 →
    (s.tx.engine = .idle → s.tx.entries = []) →
    ((∃ channel event profile amplitude priority lead : Byte,
        c = .fire t channel event profile amplitude priority lead ∧
        channel.toNat ≤ 15 ∧ profile.toNat ≤ 15 ∧ priority.toNat ≤ 3 ∧
        item = .start channel.toNat event.toNat profile.toNat amplitude.toNat priority.toNat lead.toNat) ∨
      ∃ event : Byte, c = .cancel t event ∧ item = .cancel event.toNat) →
    (s.tx.entries.length < 8 → ∃ u, exec c s = .next u ∧
      u.tx.entries.map (·.body) = s.tx.entries.map (·.body) ++
        [.trigger item u.now (u.now + 10000 * s.cfg.timing.stale)] ∧
      (s.tx.engine = .idle → u.tx.engine = .working .defer ∨ u.tx.engine = .working .driving) ∧
      (s.tx.engine ≠ .idle → u.tx.engine = s.tx.engine ∧ u.line = s.line) ∧
      u.tx.current = s.tx.current ∧ u.tx.last = (s.tx.last + 1) % 8 ∧
      u = { s with now := max s.now t, line := u.line, tx := u.tx, port := s.port.answered [0] }) ∧
    (8 ≤ s.tx.entries.length → exec c s = .next { s with now := max s.now t, port := s.port.answered [4] }) ∧
    (∀ channel event profile amplitude priority lead : Byte,
      15 < channel.toNat ∨ 15 < profile.toNat ∨ 3 < priority.toNat →
      exec (.fire t channel event profile amplitude priority lead) s
        = .next { s with now := max s.now t, port := s.port.answered [3] })

/-- The reads change nothing but the response. STATUS gives 20 bytes, TAKE OUTPUT 28, TAKE CHANNELS 68 and PEER 12 and two more
for each declaration, after the result byte; every byte holds its value in its place of R165, a field of several bytes most
significant byte first and an absent one as FF. PEER of station 0 or above 15 is PARAM (R57, R21, R115, R162, R165). The model's
own here: log entries 25 and 38. -/
def Obligations.ReadsGiveTheState : Prop :=
  ∀ s : State, s.inReset = false → s.port.decoder = .waiting →
    (∃ r, exec .status s = .next { s with port := s.port.answered r } ∧ r.length = 21 ∧ r.getD 0 0 = 0 ∧
      (r.getD 1 0).toNat = s.node.state.code ∧ r.getD 2 0 = (if s.node.quiet then 1 else 0) ∧
      (r.getD 3 0).toNat = s.tx.engine.code ∧ (r.getD 4 0).toNat = s.output.effective.code ∧
      (r.getD 5 0).toNat = s.output.stage.code ∧
      256 * (r.getD 6 0).toNat + (r.getD 7 0).toNat = s.output.factor % 65536 ∧
      r.getD 8 0 = (if s.monitor.trip then 1 else 0) ∧ (r.getD 9 0).toNat = s.events.queue.length % 256 ∧
      (r.getD 10 0).toNat = s.events.dropped % 256 ∧
      256 * (r.getD 11 0).toNat + (r.getD 12 0).toNat = s.counters.collisions % 65536 ∧
      256 * (r.getD 13 0).toNat + (r.getD 14 0).toNat = s.counters.fragments % 65536 ∧
      256 * (r.getD 15 0).toNat + (r.getD 16 0).toNat = s.counters.badBursts % 65536 ∧
      256 * (r.getD 17 0).toNat + (r.getD 18 0).toNat = s.counters.rxOverruns % 65536 ∧
      256 * (r.getD 19 0).toNat + (r.getD 20 0).toNat = s.counters.txDropped % 65536) ∧
    (s.port.ready = true →
      (s.merge.frame.outputs.length = 8 →
        ∃ r, exec .takeOutput s = .next { s with port := s.port.answered r } ∧ r.length = 29 ∧ r.getD 0 0 = 0 ∧
          r.getD 1 0 ++ r.getD 2 0 ++ r.getD 3 0 ++ r.getD 4 0 = s.merge.frame.number ∧
          (r.getD 5 0).toNat = s.merge.frame.nodeState.code ∧ (r.getD 6 0).toNat = s.merge.frame.mode.code ∧
          (r.getD 7 0).toNat = s.merge.frame.stage.code ∧
          256 * (r.getD 8 0).toNat + (r.getD 9 0).toNat = s.merge.frame.factor % 65536 ∧
          (∀ a, a < 8 → r.getD (10 + 2 * a) 0 ++ r.getD (11 + 2 * a) 0 = BitVec.ofInt 16 (s.merge.frame.outputs.getD a 0) ∧
            (r.getD 26 0).getLsbD a = s.merge.frame.clips.getD a false ∧
            (r.getD 27 0).getLsbD a = s.merge.frame.warns.getD a false) ∧
          r.getD 28 0 = if s.merge.frame.trip then 1 else 0) ∧
      (s.merge.lastChannels.values.length = 16 → s.merge.lastChannels.ages.length = 16 →
        ∃ r, exec .takeChannels s = .next { s with port := s.port.answered r } ∧ r.length = 69 ∧ r.getD 0 0 = 0 ∧
          r.getD 1 0 ++ r.getD 2 0 ++ r.getD 3 0 ++ r.getD 4 0 = s.merge.lastChannels.count ∧
          ∀ c, c < 16 →
            r.getD (5 + 2 * c) 0 ++ r.getD (6 + 2 * c) 0 = BitVec.ofInt 16 (s.merge.lastChannels.values.getD c 0) ∧
            r.getD (37 + 2 * c) 0 ++ r.getD (38 + 2 * c) 0 = BitVec.ofNat 16 (s.merge.lastChannels.ages.getD c 0)) ∧
      ∀ station : Byte,
        (1 ≤ station.toNat → station.toNat ≤ 15 →
          let p := s.peerAt station.toNat
          ∃ r, exec (.peer station) s = .next { s with port := s.port.answered r } ∧
            r.length = 13 + 2 * p.declared.length ∧ r.getD 0 0 = 0 ∧ r.getD 1 0 = (if p.self then 1 else 0) ∧
            (r.getD 2 0).toNat = p.link.code ∧ (r.getD 3 0).toNat = roleCode p.role ∧
            (r.getD 4 0).toNat = (match p.lastRequest with
              | some m => m.code
              | none => 255) ∧
            (r.getD 5 0 ++ r.getD 6 0 : Word16).toNat = (p.expected.getD 65535) % 65536 ∧
            (r.getD 7 0 ++ r.getD 8 0 : Word16).toNat = p.gaps % 65536 ∧ (r.getD 9 0).toNat = p.losses % 256 ∧
            (r.getD 10 0 ++ r.getD 11 0 : Word16).toNat = p.undeclared % 65536 ∧
            (r.getD 12 0).toNat = p.declared.length % 256 ∧
            ∀ i d, p.declared[i]? = some d →
              (r.getD (13 + 2 * i) 0).toNat = d.1 % 256 ∧ (r.getD (14 + 2 * i) 0).toNat = d.2 % 256) ∧
        (station.toNat = 0 ∨ 15 < station.toNat →
          exec (.peer station) s = .next { s with port := s.port.answered [3] }))

/-- TAKE EVENTS gives up to four of the oldest records, 12 bytes each with every field in its place and an absent one as FF, and
removes none; at the rise of SEL_N exactly those leave whose bytes were all clocked out, and READY falls if a blocking operation is
running. An empty queue answers EMPTY, and a transaction whose command was not taken has no effect (R155, R157, R162, R165, R166,
R167, R169). The model's own here: log entry 7. -/
def Obligations.EventsLeaveAtTheRise : Prop :=
  ∀ s : State, s.inReset = false →
    (s.Open → s.events.queue = [] → exec .takeEvents s = .next { s with port := s.port.answered [5] }) ∧
    (s.Open → s.events.queue ≠ [] → ∃ u, exec .takeEvents s = .next u ∧
      u.port.response.length = 2 + 12 * min 4 s.events.queue.length ∧
      (u.port.response.getD 0 0).toNat = 0 ∧ (u.port.response.getD 1 0).toNat = min 4 s.events.queue.length ∧
      (∀ i r, i < 4 → s.events.queue[i]? = some r →
        let b : Nat → Byte := fun k => u.port.response.getD (2 + 12 * i + k) 0
        (b 0).toNat = r.kind.code ∧ (b 1 ++ b 2 ++ b 3 ++ b 4 : BitVec 32) = r.count ∧
        (b 5).toNat = r.station.getD 255 % 256 ∧ (b 6).toNat = r.second.getD 255 % 256 ∧
        (b 7).toNat = r.channel.getD 255 % 256 ∧ (b 8).toNat = r.detail.getD 255 % 256 ∧
        b 9 = (if r.value = none then 0 else 1) ∧ (b 10 ++ b 11 : BitVec 16) = BitVec.ofInt 16 (r.value.getD 0)) ∧
      u = { s with port := { s.port.answered u.port.response with offered := min 4 s.events.queue.length } } ∧
      ∀ n : Nat, ∃ v m, exec (.transactionEnd n) u = .next v ∧ v.events.queue = s.events.queue.drop m ∧
        m ≤ min 4 s.events.queue.length ∧ (2 + 12 * m ≤ n ∨ m = 0) ∧
        (m = min 4 s.events.queue.length ∨ n < 2 + 12 * (m + 1))) ∧
    (∀ n : Nat, s.port.decoder = .givingResponse → ∃ u, exec (.transactionEnd n) s = .next u ∧
      u.port = { s.port with
        decoder := .waiting, response := [], offered := 0, ready := s.port.ready && decide (s.port.blocking = .none) } ∧
      (s.port.offered = 0 → u.events = s.events) ∧
      u = { s with events := { s.events with queue := u.events.queue }, port := u.port }) ∧
    (∀ n : Nat, s.port.decoder ≠ .givingResponse →
      exec (.transactionEnd n) s = .next { s with port := { s.port with decoder := .waiting } })

/-- The event queue and the alert lines. Of the records a command raises, as many as there is room for below 32 join behind those
held, in order, and each of the rest is discarded and counted, up to 255; only TRANSACTION_END and the two resets take records away.
An alert line is asserted exactly while RST_N is high and a record of a class routed to it is held; the class of a kind is the high
digit of its code (R164, R167, R168, R169, R170, R171). -/
def Obligations.EventQueueAndAlertLines : Prop :=
  (∀ (c : Instr) (s u : State), (∀ t, c ≠ .powerOnReset t) → (∀ t, c ≠ .restart t) → (∀ n, c ≠ .transactionEnd n) →
    exec c s = .next u → ∃ raised : List Record,
      u.events.queue = s.events.queue ++ raised.take (32 - s.events.queue.length) ∧
      (raised.length ≤ 32 - s.events.queue.length → u.events.dropped = s.events.dropped) ∧
      (32 - s.events.queue.length < raised.length →
        u.events.dropped = min 255 (s.events.dropped + (raised.length - (32 - s.events.queue.length))))) ∧
  (∀ (e : EventUnit) (r : Record),
    (e.queue.length < 32 → e.offer r = { e with queue := e.queue ++ [r] }) ∧
    (32 ≤ e.queue.length → e.offer r = { e with dropped := min 255 (e.dropped + 1) })) ∧
  (∀ s : State,
    (s.alertA = true ↔ s.inReset = false ∧ ∃ r ∈ s.events.queue, s.events.routes.of r.kind.eventClass = .alertA) ∧
    (s.alertB = true ↔ s.inReset = false ∧ ∃ r ∈ s.events.queue, s.events.routes.of r.kind.eventClass = .alertB)) ∧
  (∀ k : EventKind, EventClass.ofCode (k.code / 16) = some k.eventClass)

/-! ### Timers -/

/-- The peer timers. At the silence limit the peer is LOST, its losses count moves, its forget timer starts, its VALID entries
fade, and PEER_LOST is raised with the new losses count; at the forget limit it is ABSENT, its entries are undeclared and
PEER_FORGOTTEN is raised. At both, its PLAYING players of a LOOP profile become FADING with level 8, every other player stays, and
the vote is taken, with its records. At the assembly limit the assembly is discarded without an event. An expiry that falls in a
pass is held behind what the pass holds already and made as the pass ends, and comes to nothing there if a burst before it has
restarted the timer (log entry 31); a timer that does not run has no expiry (R7, R10, R11, R40, R41, R49, R69, R79, R99, R107,
R109). The model's own here: log entries 1, 3, 4 and 31. -/
def Obligations.PeerTimersRunOut : Prop :=
  ∀ (s : State) (x : Nat), s.inReset = false → 1 ≤ x → x ≤ 15 → s.peers.length = 15 →
    let departed := s.players.map fun q => q.map fun p =>
      if p.source = x ∧ p.state = .playing ∧ ∃ r, s.store.profile p.profile = some r ∧ r.endMode = .loop then
        { p with state := .fading, fadeLevel := 8 }
      else p
    (∀ started, s.merge.pass = none → (s.peerAt x).silence = some started →
      ∃ u, exec (.silenceTimerExpiry x) s = .next u ∧ u.now = max s.now (started + 10000 * s.cfg.timing.silence) ∧
        u.peerAt x = { s.peerAt x with
          link := .lost, losses := min 255 ((s.peerAt x).losses + 1), silence := none, forget := some u.now } ∧
        (∀ y, y ≠ x → u.peerAt y = s.peerAt y) ∧
        u.sources = (s.sources.map fun e => match e.held with
          | .valid v => if e.station = x then { e with held := .fading v } else e
          | _ => e) ∧
        u.players = departed ∧
        s.Raised u [{ kind := .peerLost, count := s.merge.periodCount, station := some x,
                      value := some ((min 255 ((s.peerAt x).losses + 1) : Nat) : Int) }] ∧
        u.Voted ∧ s.RequestTold u ∧ u.sender = { s.sender with pending := u.sender.pending } ∧
        u = { s with now := u.now, line := u.line, peers := u.peers, announce := u.announce, sources := u.sources,
                     players := u.players, output := u.output, tx := u.tx, sender := u.sender, events := u.events }) ∧
    (∀ started, s.merge.pass = none → (s.peerAt x).forget = some started →
      ∃ u, exec (.forgetTimerExpiry x) s = .next u ∧ u.now = max s.now (started + 10000 * s.cfg.timing.forget) ∧
        u.peerAt x = { s.peerAt x with link := .absent, role := none, declared := [], expected := none, forget := none } ∧
        (∀ y, y ≠ x → u.peerAt y = s.peerAt y) ∧
        u.sources = (s.sources.filterMap fun e =>
          if e.station = x then match e.held with
            | .empty => none
            | .valid v => some { e with held := .fading v, declared := false }
            | .fading v => some { e with held := .fading v, declared := false }
          else some e) ∧
        u.players = departed ∧
        s.Raised u [{ kind := .peerForgotten, count := s.merge.periodCount, station := some x }] ∧
        u.Voted ∧ s.RequestTold u ∧ u.sender = { s.sender with pending := u.sender.pending } ∧
        u = { s with now := u.now, line := u.line, peers := u.peers, announce := u.announce, sources := u.sources,
                     players := u.players, output := u.output, tx := u.tx, sender := u.sender, events := u.events }) ∧
    (∀ started, s.merge.pass ≠ none → (s.peerAt x).silence = some started →
      let due : State := { s with now := max s.now (started + 10000 * s.cfg.timing.silence) }
      exec (.silenceTimerExpiry x) s = .next { due with merge := { s.merge with held := s.merge.held ++ [.silence x] } } ∧
      due.MadeAsThePassEnds (.silence x) (.silenceTimerExpiry x) fun v =>
        ∃ since, (v.peerAt x).silence = some since ∧ v.now < since + 10000 * s.cfg.timing.silence) ∧
    (∀ started, s.merge.pass ≠ none → (s.peerAt x).forget = some started →
      let due : State := { s with now := max s.now (started + 10000 * s.cfg.timing.forget) }
      exec (.forgetTimerExpiry x) s = .next { due with merge := { s.merge with held := s.merge.held ++ [.forget x] } } ∧
      due.MadeAsThePassEnds (.forget x) (.forgetTimerExpiry x) fun v =>
        ∃ since, (v.peerAt x).forget = some since ∧ v.now < since + 10000 * s.cfg.timing.forget) ∧
    (∀ started, (s.peerAt x).silence = some started → s.now < started + 10000 * s.cfg.timing.silence →
      s.makeHeld (.silence x) = s) ∧
    (∀ started, (s.peerAt x).forget = some started → s.now < started + 10000 * s.cfg.timing.forget →
      s.makeHeld (.forget x) = s) ∧
    ((s.peerAt x).silence = none → exec (.silenceTimerExpiry x) s = .next s) ∧
    ((s.peerAt x).forget = none → exec (.forgetTimerExpiry x) s = .next s) ∧
    (∀ a, (s.peerAt x).assembly = some a →
      ∃ u, exec (.assemblyTimeLimit x) s = .next u ∧ u.now = max s.now (a.startedAt + 10000 * s.cfg.timing.silence) ∧
        u.peerAt x = { s.peerAt x with assembly := none } ∧ (∀ y, y ≠ x → u.peerAt y = s.peerAt y) ∧
        u = { s with now := u.now, peers := u.peers })

/-- The join window ends: the node is ACTIVE, the vote is taken, with its records, the stage turns to RISING exactly when the
effective mode is LIVE, and on a talking node the Level Sender begins with a LEVEL at once (R69, R71, R76, R79, R112, R118, R131).
The model's own here: log entries 3, 4 and 22. -/
def Obligations.JoinWindowEnds : Prop :=
  ∀ (s : State) (started : Nat), s.inReset = false → s.node.window = some started → s.sender.state = .silent →
    ∃ u, exec .joinWindowExpiry s = .next u ∧ u.now = max s.now (started + 10000 * s.cfg.timing.silence) ∧
      u.node = { s.node with state := .active, window := none } ∧ u.Voted ∧ u.output.factor = s.output.factor ∧
      (u.output.effective = .live ↔ u.output.stage = .live ∨ u.output.stage = .rising) ∧
      (s.cfg.station ≠ 0 → u.sender = { s.sender with
          state := .changing, unchanged := 0, levelTimer := some 0, refresh := some u.now, pending := u.sender.pending } ∧
        s.LevelAsked u false) ∧
      (s.cfg.station = 0 → u.sender = s.sender ∧ u.tx = s.tx ∧ u.line = s.line ∧ u.announce = s.announce) ∧
      s.Raised u [{ kind := .nodeState, count := s.merge.periodCount, detail := some 2,
                    value := some (s.node.state.code : Int) }] ∧
      u = { s with now := u.now, line := u.line, announce := u.announce, output := u.output, tx := u.tx,
                   sender := u.sender, node := u.node, events := u.events }

/-- The Level Sender's timers and the announce hold-off. At a level interval expiry a produced channel that has moved past its
deadband, or a changed own request, makes the sender CHANGING and asks for a LEVEL; with nothing moved the unchanged count goes up
to the hold-after count, where the sender becomes HOLDING. The refresh timer restarts and asks for a LEVEL with the hold flag of
the state. The hold-off ends and queues the remembered group: this node's own pages in their order join behind the entries that
stand, or the group waits outside (R97, R105, R117, R118, R119, R132, R133). The model's own here: log entries 3, 4 and 5. -/
def Obligations.SenderTimersRunOut : Prop :=
  ∀ s : State, s.inReset = false →
    (∀ n, s.sender.levelTimer = some n →
      (n < s.cfg.timing.levelInterval → exec .levelIntervalExpiry s = .next s) ∧
      (s.cfg.timing.levelInterval ≤ n → ∃ u, exec .levelIntervalExpiry s = .next u ∧
        u.sender.levelTimer = some (n - s.cfg.timing.levelInterval) ∧
        ((s.sender.lastRequest ≠ some s.output.ownRequest ∨ ∃ c v, c < 16 ∧ (s.channel c).produce = true ∧
            s.sender.posted.getD c none = some v ∧
            ∀ w, s.sender.lastSent.getD c none = some w → (s.channel c).deadband < (v - w).natAbs) →
          u.sender.state = .changing ∧ u.sender.unchanged = 0 ∧ s.LevelAsked u false) ∧
        (s.sender.lastRequest = some s.output.ownRequest →
          (∀ c v, c < 16 → (s.channel c).produce = true → s.sender.posted.getD c none = some v →
            ∃ w, s.sender.lastSent.getD c none = some w ∧ (v - w).natAbs ≤ (s.channel c).deadband) →
          u.tx = s.tx ∧ u.line = s.line ∧ u.announce = s.announce ∧ u.sender.pending = s.sender.pending ∧
          (s.sender.unchanged < s.cfg.timing.holdAfter → u.sender.unchanged = s.sender.unchanged + 1) ∧
          (s.cfg.timing.holdAfter ≤ s.sender.unchanged → u.sender.unchanged = s.sender.unchanged) ∧
          (s.sender.unchanged + 1 = s.cfg.timing.holdAfter → u.sender.state = .holding) ∧
          (s.sender.unchanged + 1 ≠ s.cfg.timing.holdAfter → u.sender.state = s.sender.state)) ∧
        u.sender = { s.sender with
          state := u.sender.state, unchanged := u.sender.unchanged, levelTimer := u.sender.levelTimer
          pending := u.sender.pending } ∧
        u = { s with line := u.line, announce := u.announce, tx := u.tx, sender := u.sender })) ∧
    (∀ started, s.sender.refresh = some started → ∃ u, exec .refreshTimerExpiry s = .next u ∧
      u.now = max s.now (started + 10000 * s.cfg.timing.refresh) ∧
      u.sender = { s.sender with refresh := some u.now, pending := u.sender.pending } ∧
      s.LevelAsked u (decide (s.sender.state = .holding)) ∧
      u = { s with now := u.now, line := u.line, announce := u.announce, tx := u.tx, sender := u.sender }) ∧
    (∀ started, s.announce.holdOff = some started → ∃ u, exec .announceHoldOffExpiry s = .next u ∧
      u.now = max s.now (started + 10000 * s.cfg.timing.refresh) ∧
      u.announce.holdOff = none ∧ u.announce.remembered = false ∧
      (s.announce.remembered = false → u.tx = s.tx ∧ u.line = s.line ∧ u.announce = { s.announce with holdOff := none }) ∧
      (s.announce.remembered = true →
        s.GroupJoins u s.tx.entries { s.announce with state := .queued, holdOff := none, remembered := false } ∧
        (s.tx.engine ≠ .idle → u.tx.engine = s.tx.engine ∧ u.line = s.line) ∧
        (s.tx.engine = .idle → s.tx.entries = [] → u.tx.engine = .working .defer ∨ u.tx.engine = .working .driving)) ∧
      u = { s with now := u.now, line := u.line, announce := u.announce, tx := u.tx })

/-- A TRIGGER entry whose deadline passes is dropped as stale at once, counted and reported: in IDLE, DEFER, BACKOFF, SUSPENDED
and SUSPENDING, the current one too, which in SUSPENDING leaves the engine SUSPENDED. The current entry of an engine in DRIVING runs
its attempt out, and a STOPPED engine drops nothing. The entries behind the dropped one move up, and the freed place goes to a
pending LEVEL and then to a waiting announce group (R118, R119, R120, R125, R126). The model's own here: log entries 3 and 4, and 33
for the line where the entry is being driven in SUSPENDING. -/
def Obligations.StaleTriggerIsDropped : Prop :=
  ∀ (s : State) (i : Nat) (e : TxEntry) (item : TriggerItem) (queued deadline : Nat), s.inReset = false →
    s.tx.entries.length ≤ 8 → s.tx.entries[i]? = some e → e.body = .trigger item queued deadline →
    (s.tx.engine = .stopped → exec (.staleDeadline i) s = .next s) ∧
    (i = 0 → s.tx.engine = .working .driving →
      exec (.staleDeadline i) s = .next { s with now := max s.now deadline }) ∧
    (s.tx.engine ≠ .stopped → (i = 0 → s.tx.engine ≠ .working .driving) →
      ∃ u, exec (.staleDeadline i) s = .next u ∧ u.now = max s.now deadline ∧
        u.counters = { s.counters with txDropped := min 65535 (s.counters.txDropped + 1) } ∧
        u.events = s.events.offer {
          kind := .triggerDropped, count := s.merge.periodCount, station := some s.cfg.station,
          channel := item.staleFields.1, detail := some 7, value := some (item.staleFields.2 : Int) } ∧
        u.sender = { s.sender with pending := none } ∧
        (s.tx.engine ≠ .idle → s.Refilled u (s.tx.entries.eraseIdx i)) ∧
        (1 ≤ i → s.tx.engine ≠ .idle → u.tx.engine = s.tx.engine ∧ u.tx.current = s.tx.current ∧ u.line = s.line ∧
          u.tx.entries.head? = s.tx.entries.head? ∧
          (s.announce.waiting = false → u.tx.entries = s.tx.entries.eraseIdx i ++ s.heldLevel)) ∧
        (1 ≤ i → s.sender.pending = none → s.announce.waiting = false →
          u.tx = { s.tx with entries := s.tx.entries.eraseIdx i, last := (s.tx.last + 7) % 8 }) ∧
        (i = 0 → s.MovedOn u ∧ u.tx.current = (s.tx.current + 1) % 8 ∧
          (∀ w, s.tx.engine = .working w ∨ s.tx.engine = .suspending w → u.line.wait = .none) ∧
          (s.tx.engine = .suspending .driving → u.line.drive = .idle)) ∧
        u = { s with now := u.now, line := u.line, announce := u.announce, tx := u.tx, sender := u.sender,
                     counters := u.counters, events := u.events })

/-! ### The line -/

/-- The carrier of others. Its beginning stops a quiet count below 40, and the run is received if the receive path is open and
this node is not driving; its end, received or not, starts the quiet count from 0 where the path is open and this node is off the
line. A received run is collected from the first start byte in its bits on, whole bytes most significant bit first, and judged:
with no start byte or fewer than 6 bytes it is a fragment; more than 54 bytes, a wrong CRC, an unknown kind, and a length, mode
code or payload that breaks the format checks are each a BAD_BURST with its reason and fields. A run that breaks none of them joins
the Receive FIFO as the burst its bytes read as, or is an overrun, whatever bits stand before its start byte and after its last whole
byte and whatever the bits that are not read hold; a burst as its sender put it on the line among them. The check value is the one
that R153 forms (R138, R145 to R154).
The model's own here: log entries 3, 20 and 34. -/
def Obligations.RunsAreReceived : Prop :=
  CheckValueFormed ∧ ∀ (s : State) (t : Nat),
    (s.line.run = none → ∃ q, exec (.carrierStart t) s = .next { s with
        now := max s.now t
        line := { s.line with
          run := some { received := s.line.receiveOpen && decide (s.line.drive = .idle) }, quiet := q } } ∧
      (∀ since, s.line.quiet = .counting since → max s.now t < since + 40 → q = .stopped) ∧
      ((∀ since, s.line.quiet = .counting since → since + 40 ≤ max s.now t) → q = s.line.quiet)) ∧
    (∀ bits : List Bool, s.line.receiveOpen = true → s.line.drive = .idle → s.line.run = some { received := true } →
      let start := [true, false, true, true, true, false, false, true]
      let onLine := fun bytes : List Byte => bytes.flatMap fun b => [7, 6, 5, 4, 3, 2, 1, 0].map b.getLsbD
      let holds := fun bytes : List Byte => ∃ lead tail, bits = lead ++ start ++ onLine bytes ++ tail ∧ tail.length < 8 ∧
        ∀ i, i < lead.length → (bits.drop i).take 8 ≠ start
      ∃ u, exec (.runEnd t bits) s = .next u ∧ u.now = max s.now t ∧
        u.line = { s.line with run := none, quiet := .counting u.now } ∧
        (let bad := fun (reason : Nat) (station : Option Nat) (value : Nat) => u.fifo = s.fifo ∧
          u.counters = { s.counters with badBursts := min 65535 (s.counters.badBursts + 1) } ∧
          u.events = s.events.offer { kind := .badBurst, count := s.merge.periodCount, station, detail := some reason,
                                      value := some (value : Int) }
         let taken := fun b : Burst =>
          (s.fifo.length < 4 → u.fifo = s.fifo ++ [{ burst := b, endInstant := u.now, own := false }] ∧
            u.counters = s.counters ∧ u.events = s.events) ∧
          (4 ≤ s.fifo.length → u.fifo = s.fifo ∧
            u.counters = { s.counters with rxOverruns := min 65535 (s.counters.rxOverruns + 1) } ∧
            u.events = s.events.offer {
              kind := .rxOverrun, count := s.merge.periodCount, station := some b.source,
              detail := some b.payload.kind, value := some (b.seq : Int) })
         ((∀ i, (bits.drop i).take 8 ≠ start) ∨ (∃ l, holds l ∧ l.length < 6) → u.fifo = s.fifo ∧ u.events = s.events ∧
          u.counters = { s.counters with fragments := min 65535 (s.counters.fragments + 1) }) ∧
         (∀ l, holds l → 54 < l.length → bad 1 none 54) ∧
         (∀ l hi lo, holds (l ++ [hi, lo]) → 4 ≤ l.length → l.length ≤ 52 → hi ++ lo ≠ crc16 l →
          bad 2 none (l.length + 2)) ∧
         (∀ h0 h1 h2 h3 payload hi lo, holds (h0 :: h1 :: h2 :: h3 :: payload ++ [hi, lo]) → payload.length ≤ 48 →
          hi ++ lo = crc16 (h0 :: h1 :: h2 :: h3 :: payload) →
          (h0.toNat / 16 = 0 ∨ 4 < h0.toNat / 16 → bad 3 (some (h0.toNat % 16)) (payload.length + 6)) ∧
          (1 ≤ h0.toNat / 16 → h0.toNat / 16 ≤ 4 →
            let broken :=
             (h3.toNat ≠ payload.length ∨ h2.toNat / 64 = 3 ∨
              (h0.toNat / 16 = 1 ∧ (payload = [] ∨ ∃ page body decls n, payload = page :: body ∧
                decls = (if page.toNat / 16 = 0 then body.drop 3 else body) ∧ n = (decls.getD 0 0).toNat ∧
                (page.toNat % 16 = 0 ∨ 4 < page.toNat % 16 ∨ page.toNat % 16 ≤ page.toNat / 16 ∨ decls = [] ∨ 4 < n ∨
                  decls.length ≠ 1 + 2 * n ∨ ∃ i, i < n ∧ 15 < (decls.getD (1 + 2 * i) 0).toNat))) ∨
              (h0.toNat / 16 = 2 ∧ (payload.length % 3 ≠ 0 ∨
                (∃ i, 3 * i < payload.length ∧ 15 < (payload.getD (3 * i) 0).toNat) ∨
                ∃ i, 3 * (i + 1) < payload.length ∧
                  (payload.getD (3 * (i + 1)) 0).toNat ≤ (payload.getD (3 * i) 0).toNat)) ∨
              (h0.toNat / 16 = 3 ∧ (payload = [] ∨ payload.length % 5 ≠ 0 ∨ 20 < payload.length)) ∨
              (h0.toNat / 16 = 4 ∧ payload ≠ []))
            (broken → bad 4 (some (h0.toNat % 16)) (payload.length + 6)) ∧
            (¬broken → ∃ b : Burst, b.ReadFrom h0 h1 h2 h3 payload ∧ taken b)) ∧
          (∀ b : Burst, b.ReadFrom h0 h1 h2 h3 payload → taken b)) ∧
         (∀ b : Burst, b.Fits → bits = b.onLine → taken b)) ∧
        u = { s with now := u.now, line := u.line, fifo := u.fifo, counters := u.counters, events := u.events }) ∧
    (∀ bits : List Bool, s.line.run = some { received := false } →
      exec (.runEnd t bits) s = .next { s with
        now := max s.now t
        line := { s.line with
          run := none
          quiet := if s.line.receiveOpen = true ∧ s.line.drive = .idle then .counting (max s.now t) else s.line.quiet } })

/-- An attempt starts. At the end of the gap an engine in DEFER drives its current entry: on the first attempt the entry has
begun, takes the node's sequence number, and the number moves on; a retry keeps its own. A page 0 takes at its first attempt the
known mask of that moment, the PRESENT and HOLDING peers without this node, and the announce state becomes begun. The burst carries
this node's station, that number and the own request, and its bits stand on the line from then on. Where the engine is not in DEFER
the gap only ends. At the end of a backoff wait the engine is in DEFER, and where the gap has ended on a free line it drives at
once (R97, R105, R121, R137, R138, R139, R143). The model's own here: log entries 3, 4 and 26. -/
def Obligations.GapAndWaitStartTheDrive : Prop :=
  (∀ (s : State) (since : Nat), s.line.quiet = .counting since →
    ((s.tx.engine.work ≠ some .defer ∨ s.line.drive ≠ .idle) →
      exec .gapEnd s = .next { s with now := max s.now (since + 64), line := { s.line with quiet := .ended } }) ∧
    (∀ e rest, s.tx.engine.work = some .defer → s.line.drive = .idle → s.tx.entries = e :: rest →
      ∃ u, exec .gapEnd s = .next u ∧ u.now = max s.now (since + 64) ∧ u.line.quiet = .ended ∧
        u.line.wait = s.line.wait ∧ s.DriveBegins u e rest ∧
        u = { s with now := u.now, line := u.line, announce := u.announce, tx := u.tx })) ∧
  (∀ (s : State) (ends : Nat), s.line.wait = .running ends → s.tx.engine.work = some .backoff →
    ∃ u, exec .backoffWaitEnd s = .next u ∧ u.now = max s.now ends ∧ s.TurnsToDefer u ∧
      u.line.wait = .none ∧ u = { s with now := u.now, line := u.line, announce := u.announce, tx := u.tx })

/-- The echo check, 40 bit times into a drive. Carrier heard: the failed checks in a row are 0 again. None heard: the node
stops with no jam and the attempt counts as failed. A kept entry draws a backoff; a TRIGGER past its deadline is dropped as stale;
the twelfth failure starts again at 0 with persist set, and drops the entry as EXCESSIVE without it, in SUSPENDING too. The third
failed check in a row ends, after the queue has dealt with the attempt, in LINE_FAULT and FAULT, where the engine is STOPPED and the
own request PARK (R105, R114, R118, R119, R123, R124, R125, R126, R128, R142, R143, R144). The model's own here: log entries 3, 4,
11 and 27; that a deadline equal to the instant of the check counts as passed, log entry 19; and that the drop of a BYE by the third
failed check ends in FAULT with no LEAVE completion due, log entry 12. -/
def Obligations.EchoCheckJudgesTheDrive : Prop :=
  ∀ (s : State) (b : Burst) (since : Nat), s.line.drive = .driving b since →
    (∀ heard : Bool, heard = true ∨ s.line.run ≠ none →
      exec (.echoCheck heard) s
        = .next { s with now := max s.now (since + 40), line := { s.line with echoFails := 0 } }) ∧
    (∀ e rest, s.line.run = none → s.tx.entries = e :: rest → rest.length < 8 →
      (∃ w, s.tx.engine = .working w ∨ s.tx.engine = .suspending w) →
      let ends := max s.now (since + 40)
      let dropped := s.failureRecord e false ends
      let attempts := if e.attempts + 1 < 12 then e.attempts + 1 else 0
      let slots := (lfsrStep s.line.backoffReg).toNat % 2 ^ min attempts 6
      (s.line.echoFails < 2 → ∃ u, exec (.echoCheck false) s = .next u ∧ u.now = ends ∧
        u.line = { s.line with
          drive := u.line.drive, echoFails := s.line.echoFails + 1, backoffReg := u.line.backoffReg, wait := u.line.wait } ∧
        (dropped = none → u.line.backoffReg = lfsrStep s.line.backoffReg ∧
          (1 ≤ slots → u.line.drive = .idle ∧ u.line.wait = .running (ends + 128 * slots) ∧
            u.tx = { s.tx with entries := { e with attempts } :: rest, engine := s.tx.engine.at .backoff }) ∧
          (slots = 0 → u.line.wait = .none ∧ (u.tx.engine.work = some .defer ∨ u.tx.engine.work = some .driving) ∧
            (e.begun = true → u.tx = { s.tx with entries := { e with attempts } :: rest, engine := u.tx.engine })) ∧
          (e.begun = true → u.announce = s.announce) ∧
          u = { s with now := u.now, line := u.line, announce := u.announce, tx := u.tx }) ∧
        (∀ record, dropped = some record → s.Dropped u e rest record) ∧
        u = { s with now := u.now, line := u.line, announce := u.announce, tx := u.tx, sender := u.sender,
                     node := u.node, counters := u.counters, port := u.port, events := u.events }) ∧
      (2 ≤ s.line.echoFails → s.node.state = .joining ∨ s.node.state = .active ∨ s.node.state = .leaving →
        ∃ u, exec (.echoCheck false) s = .next u ∧ u.now = ends ∧
          s.FaultEntered u ∧ u.line.echoFails = s.line.echoFails + 1 ∧
          (dropped = none → u.counters = s.counters ∧
            (e.begun = true → u.tx = { s.tx with entries := { e with attempts } :: rest, engine := .stopped })) ∧
          (∀ record, dropped = some record →
            u.counters = { s.counters with txDropped := min 65535 (s.counters.txDropped + 1) } ∧
            (s.announce.waiting = false → ∀ left, e.LeavesBehind rest left →
              let queue := left ++ s.heldLevel
              let pages := max 1 ((s.ownDeclarations.length + 3) / 4)
              let joins := e.isPage = true ∧ s.announce.remembered = true ∧ queue.length + pages ≤ 8
              (joins → u.tx.entries.length = queue.length + pages ∧ queue.tail <+: u.tx.entries.tail) ∧
              (¬joins → u.tx.entries.length = queue.length ∧ u.tx.entries.tail = queue.tail))) ∧
          s.Raised u (dropped.toList ++
            [{ kind := .lineFault, count := s.merge.periodCount, station := some s.cfg.station },
             { kind := .nodeState, count := s.merge.periodCount, detail := some 4,
               value := some (s.node.state.code : Int) }]) ∧
          u = { s with now := u.now, line := u.line, announce := u.announce, output := u.output, tx := u.tx,
                       sender := u.sender, node := u.node, counters := u.counters, port := u.port, events := u.events }))

/-- A collision. At the first bit that differs the node stops its burst and drives a jam, 32 bits of the alternating pattern;
before the end of the start byte it counts as a passed echo check. Once it has jammed, the node releases the line, the collision
is counted, and it is reported. Within the window a kept entry has one more attempt, the register steps once, and the wait of the
slots drawn begins, 128 bit times each; a wait of none is over at once. The twelfth failure starts again at 0 with persist set,
and drops the entry as EXCESSIVE without it; a TRIGGER past its deadline is dropped as stale. After the window the entry is
dropped as LATE. With a page, the later pages of its group leave, the group ends without a hold-off, a remembered one is queued,
and a blocking JOIN ends; with a BYE, LEAVE completion becomes due; SUSPENDING ends in SUSPENDED (R105, R111, R113, R123 to R126,
R140 to R143, R147). The model's own here: log entries 3, 4, 10, 11, 12, 19 and 35. -/
def Obligations.CollisionJamsAndBacksOff : Prop :=
  (∀ (s : State) (b : Burst) (since bit : Nat), s.line.drive = .driving b since → bit < b.lineBits →
    ∃ u late, exec (.collision bit) s = .next u ∧
      u = { s with
        now := max s.now (since + bit + 1)
        line := { s.line with
          drive := .jamming (u.now + 32) late, echoFails := if bit < 40 then 0 else s.line.echoFails } } ∧
      (late = true ↔ 40 + 8 * s.cfg.timing.window ≤ bit) ∧
      ∀ i, u.line.drivenAt (u.now + i) = if i < 32 then some (decide (i % 2 = 1)) else none) ∧
  ∀ (s : State) (ends : Nat) (late : Bool) (e : TxEntry) (rest : List TxEntry),
    s.line.drive = .jamming ends late → s.line.receiveOpen = true → s.tx.entries = e :: rest → rest.length < 8 →
    (∃ w, s.tx.engine = .working w ∨ s.tx.engine = .suspending w) →
    let dropped := s.failureRecord e late (max s.now ends)
    ∃ u, exec .jamEnd s = .next u ∧ u.now = max s.now ends ∧
      u.line = { s.line with
        drive := .idle, quiet := if s.line.run = none then .counting u.now else s.line.quiet
        backoffReg := u.line.backoffReg, wait := u.line.wait } ∧
      u.counters = { s.counters with
        collisions := min 65535 (s.counters.collisions + 1), txDropped := u.counters.txDropped } ∧
      u.tx.engine.work ≠ some .driving ∧
      (dropped = none →
        let attempts := if e.attempts + 1 < 12 then e.attempts + 1 else 0
        let slots := (lfsrStep s.line.backoffReg).toNat % 2 ^ min attempts 6
        u.line.backoffReg = lfsrStep s.line.backoffReg ∧ u.counters.txDropped = s.counters.txDropped ∧
        u.tx = { s.tx with
          entries := { e with attempts } :: rest, engine := s.tx.engine.at (if slots = 0 then .defer else .backoff) } ∧
        u.line.wait = (if slots = 0 then .none else .running (u.now + 128 * slots)) ∧
        u = { s with now := u.now, line := u.line, tx := u.tx, counters := u.counters }) ∧
      (∀ record, dropped = some record → s.Dropped u e rest record) ∧
      u = { s with now := u.now, line := u.line, announce := u.announce, tx := u.tx, sender := u.sender,
                   node := u.node, counters := u.counters, port := u.port, events := u.events }

/-- A burst driven to its end: the line is released, the own copy is offered to the Receive FIFO with the instant the burst
ended, and the entry leaves the queue. The freed place goes to a pending LEVEL and then to a waiting announce group. While pages of
its group stand behind it the engine goes on in DEFER, the announce state stays and a JOIN goes on blocking; with its last page the
group is over: the hold-off runs, or a remembered group is queued in its place, a blocking JOIN ends and the join window starts. A
LEVEL restarts the refresh timer; a BYE makes LEAVE completion due. Then the engine turns to the next entry or is IDLE, and
SUSPENDING ends in SUSPENDED once the group is over (R105, R111, R112, R118, R119, R120, R122, R126, R133, R140, R146). The model's
own here: log entries 3, 4 and 12. -/
def Obligations.AttemptCompletes : Prop :=
  ∀ (s : State) (b : Burst) (since : Nat) (e : TxEntry) (rest : List TxEntry),
    s.line.drive = .driving b since → s.tx.entries = e :: rest → rest.length < 8 →
    s.tx.engine = .working .driving ∨ s.tx.engine = .suspending .driving → s.line.receiveOpen = true →
    let goesOn := e.hasLaterPages = true ∧ ∃ next, rest.head? = some next ∧ next.laterPage = true
    ∃ u, exec .attemptCompletes s = .next u ∧ u.now = max s.now (since + b.lineBits) ∧
      u.line = { s.line with
        drive := .idle, quiet := if s.line.run = none then .counting u.now else s.line.quiet, wait := .none } ∧
      u.tx.current = (s.tx.current + 1) % 8 ∧ u.tx.sequence = s.tx.sequence ∧ u.tx.engine.work ≠ some .driving ∧
      (goesOn → u.tx.engine = s.tx.engine.at .defer) ∧ (¬goesOn → s.MovedOn u) ∧
      (e.isPage = false ∨ goesOn → s.Refilled u rest) ∧
      (goesOn → u.port = s.port ∧ u.node = s.node) ∧
      (e.isPage = true → ¬goesOn → s.announce.waiting = false → s.GroupEnded u rest true) ∧
      (e.isPage = false → u.port = s.port ∧
        u.node = { s.node with leaveDue := s.node.leaveDue || decide (e.body = .bye) }) ∧
      u.sender = { s.sender with
        pending := none, refresh := if e.isLevel then s.sender.refresh.map fun _ => u.now else s.sender.refresh } ∧
      (s.fifo.length < 4 → u.fifo = s.fifo ++ [{ burst := b, endInstant := u.now, own := true }] ∧
        u.counters = s.counters ∧ u.events = s.events) ∧
      (4 ≤ s.fifo.length → u.fifo = s.fifo ∧
        u.counters = { s.counters with rxOverruns := min 65535 (s.counters.rxOverruns + 1) } ∧
        u.events = s.events.offer {
          kind := .rxOverrun, count := s.merge.periodCount, station := some b.source,
          detail := some b.payload.kind, value := some (b.seq : Int) }) ∧
      u = { s with now := u.now, line := u.line, fifo := u.fifo, announce := u.announce, tx := u.tx, sender := u.sender,
                   node := u.node, counters := u.counters, port := u.port, events := u.events }

/-- A LEVEL of a peer that is not ABSENT is applied whole: the header's request is recorded, a LOST peer returns with
PEER_RETURNED and the time it was LOST, its forget timer stopped and no gap counted, the missed bursts of the others are counted,
the silence timer restarts and the link follows the hold flag; each carried channel of its declared set has its entry VALID with
the value and this period count, and each other one counts as undeclared. A LEVEL of an ABSENT peer sets nothing: it counts as
undeclared once and asks for a re-announce, which queues a group, is remembered or absorbed, or is not taken, as the announce state
and the node state have it. Then the vote is taken, with its records (R8, R66, R69, R79, R96, R103, R104, R105, R108, R119). The model's
own here: log entries 3 and 26. -/
def Obligations.PeerLevelIsApplied : Prop :=
  ∀ (s : State) (x seq : Nat) (request : Mode) (hold : Bool) (pairs : List (Nat × Int)) (instant : Nat)
    (rest : List FifoEntry),
    s.inReset = false → s.merge.pass = none → s.peers.length = 15 → 1 ≤ x → x ≤ 15 → x ≠ s.cfg.station →
    s.fifo = { burst := { source := x, seq, request, hold, payload := .level pairs }, endInstant := instant, own := false }
      :: rest →
    (pairs.Pairwise fun a b => a.1 < b.1) →
    ∃ u, exec .applyBurst s = .next u ∧ u.fifo = rest ∧
      (let p := s.peerAt x
       let declared := fun c => p.declared.any fun d => d.1 == c
       (p.link ≠ .absent →
         u.peerAt x = { p with
           lastRequest := some request
           link := if hold then .holding else .present
           silence := some s.now
           forget := if p.link = .lost then none else p.forget
           expected := some ((seq + 1) % 256)
           gaps := match p.expected with
             | some e => if p.link = .lost then p.gaps else min 65535 (p.gaps + (seq + 256 - e) % 256)
             | none => p.gaps
           undeclared := (pairs.filter fun q => !declared q.1).foldl (fun n _ => min 65535 (n + 1)) p.undeclared } ∧
         u.sources = (s.sources.map fun e => match pairs.find? fun q => q.1 == e.channel with
           | some q => if e.station = x ∧ declared e.channel = true
               then { e with held := .valid (if q.2 = -32768 then -32767 else q.2), lastUpdate := some s.merge.periodCount }
               else e
           | none => e) ∧
         (p.link ≠ .lost → s.Raised u []) ∧
         (p.link = .lost → ∀ lostAt, p.forget = some lostAt → s.Raised u [
           { kind := .peerReturned, count := s.merge.periodCount, station := some x,
             value := some ((min 32767 ((s.now - lostAt) / 10000) : Nat) : Int) }]) ∧ s.RequestTold u) ∧
       (p.link = .absent →
         u.peerAt x = { p with lastRequest := some request, undeclared := min 65535 (p.undeclared + 1) } ∧
         u.sources = s.sources ∧ s.Raised u [] ∧ { s with peers := u.peers }.AnnounceTold u)) ∧
      (∀ y, y ≠ x → u.peerAt y = s.peerAt y) ∧ u.Voted ∧ u.sender = { s.sender with pending := u.sender.pending } ∧
      u = { s with fifo := rest, line := u.line, peers := u.peers, announce := u.announce, sources := u.sources,
                   output := u.output, tx := u.tx, sender := u.sender, events := u.events }

/-- A TRIGGER burst is applied whole, its items in the order they stand, each as StartItemArms and CancelItem say, on the state the
items before it left, with the burst's sender as source and the burst's end instant: this node's own completed copy; a PRESENT or
HOLDING peer's, after its header steps; a LOST peer's, which first returns with PEER_RETURNED. Of an ABSENT peer's, each START item
is dropped as UNANNOUNCED and a CANCEL item ignored, the burst counts as undeclared once, and a re-announce is asked for. Then the
vote is taken, with its records; the node, its port and its counters stay (R29, R43, R65, R69, R79, R96, R103, R104, R105, R108,
R119). The model's own here: log entries 3 and 26. -/
def Obligations.TriggerIsApplied : Prop :=
  ∀ (s : State) (f : FifoEntry) (items : List TriggerItem) (rest : List FifoEntry),
    s.inReset = false → s.merge.pass = none → s.peers.length = 15 → s.fifo = f :: rest → f.burst.payload = .trigger items →
    let x := f.burst.source
    let p := s.peerAt x
    let apply := fun v : State => items.foldl (fun v item => match item with
      | .start channel event profile amplitude priority lead =>
        applyStart x f.endInstant channel event profile amplitude priority lead v
      | .cancel event => applyCancel x event v) v
    ∃ u, exec .applyBurst s = .next u ∧ u.fifo = rest ∧ u.Voted ∧ u.sources = s.sources ∧
      let kept := u.node = s.node ∧ u.port = s.port ∧ u.counters = s.counters ∧
        u.sender = { s.sender with pending := u.sender.pending }
      (f.own = true → x = s.cfg.station → x ≠ 0 → u.peers = s.peers ∧ kept ∧ s.RequestTold u ∧
        u.players = (apply { s with fifo := rest }).players ∧
        (apply { s with fifo := rest }).Raised u []) ∧
      (f.own = false → 1 ≤ x → x ≤ 15 → x ≠ s.cfg.station →
        (∀ y, y ≠ x → u.peerAt y = s.peerAt y) ∧ kept ∧ (p.link ≠ .absent → s.RequestTold u) ∧
        (p.link = .present ∨ p.link = .holding →
          u.peerAt x = { p with
            lastRequest := some f.burst.request, silence := some s.now, expected := some ((f.burst.seq + 1) % 256)
            gaps := match p.expected with
              | some e => min 65535 (p.gaps + (f.burst.seq + 256 - e) % 256)
              | none => p.gaps } ∧
          u.players = (apply { s with fifo := rest, peers := u.peers }).players ∧
          (apply { s with fifo := rest, peers := u.peers }).Raised u []) ∧
        (p.link = .lost → ∀ lostAt, p.forget = some lostAt →
          u.peerAt x = { p with
            lastRequest := some f.burst.request, link := if f.burst.hold then .holding else .present, forget := none
            silence := some s.now, expected := some ((f.burst.seq + 1) % 256) } ∧
          let returned := apply { s with
            fifo := rest, peers := u.peers
            events := s.events.offer { kind := .peerReturned, count := s.merge.periodCount, station := some x,
                                       value := some ((min 32767 ((s.now - lostAt) / 10000) : Nat) : Int) } }
          u.players = returned.players ∧ returned.Raised u []) ∧
        (p.link = .absent →
          u.peerAt x = { p with
            lastRequest := some f.burst.request, undeclared := min 65535 (p.undeclared + 1) } ∧
          u.players = s.players ∧
          (let drops := items.filterMap fun item => match item with
            | .start channel event .. => some ({
                kind := .triggerDropped, count := s.merge.periodCount, station := some x, channel := some channel,
                detail := some 1, value := some (event : Int) } : Record)
            | .cancel _ => none
           s.Raised u drops) ∧
          { s with peers := u.peers }.AnnounceTold u)) ∧
      u = { s with fifo := rest, line := u.line, peers := u.peers, announce := u.announce, players := u.players,
                   output := u.output, tx := u.tx, sender := u.sender, node := u.node, counters := u.counters,
                   port := u.port, events := u.events }

/-- The Burst Applier on other bursts: a BYE makes its peer ABSENT and discards what it declared, so that its entries fade out
undeclared, its EMPTY ones are gone, and its PLAYING players of a LOOP profile become FADING with level 8, no other player
changing; of an ABSENT peer it only records the request. A burst under this node's own number that this node did not send is
DUPLICATE_STATION, and a joined node enters FAULT with all that brings: its drive is cut and the entries of its queue stay; a
further one changes nothing. Source 0 is BAD_BURST, reason FORMAT; an own LEVEL sets the own entries of produced channels and the
last-sent values, and an own page or BYE changes nothing; a burst taken in a pass is held behind what the pass holds already and
made as the pass ends, whatever its kind; with the FIFO empty nothing happens. Each ends with the vote and its records, and but for
FAULT the node and the port stay (R7, R9, R11, R41, R66, R69, R95, R110, R114, R128, R131, R134). The model's own here: log entries 1,
28, 31 and 32. -/
def Obligations.OtherBurstsAreApplied : Prop :=
  ∀ (s : State), s.inReset = false →
    (s.merge.pass ≠ none →
      exec .applyBurst s = .next { s with merge := { s.merge with held := s.merge.held ++ [.applyBurst] } } ∧
      s.MadeAsThePassEnds .applyBurst .applyBurst fun _ => False) ∧
    (s.merge.pass = none → s.fifo = [] → exec .applyBurst s = .next s) ∧
    (∀ (f : FifoEntry) (rest : List FifoEntry), s.merge.pass = none → s.fifo = f :: rest →
      let settled := s.Voted ∧
        (s.output.stage = .live ∨ s.output.stage = .rising ↔ s.output.effective = .live ∧ s.node.state = .active)
      ∃ u, exec .applyBurst s = .next u ∧ u.fifo = rest ∧ u.Voted ∧
        let stays := u.node = s.node ∧ u.port = s.port ∧ s.RequestTold u
        let senderStays := u.sender = { s.sender with pending := u.sender.pending }
        (f.burst.source = 0 → u.peers = s.peers ∧ u.sources = s.sources ∧ u.players = s.players ∧ stays ∧ senderStays ∧
          u.counters = { s.counters with badBursts := min 65535 (s.counters.badBursts + 1) } ∧
          s.Raised u [{ kind := .badBurst, count := s.merge.periodCount, station := some 0, detail := some 4 }]) ∧
        (f.burst.source ≠ 0 → f.own = false → f.burst.source = s.cfg.station →
          u.peers = s.peers ∧ u.sources = s.sources ∧ u.players = s.players ∧
          u.counters = s.counters ∧
          (s.node.state = .fault → s.Raised u [] ∧ stays ∧ senderStays ∧ (settled → u = { s with fifo := rest })) ∧
          (s.node.state = .joining ∨ s.node.state = .active ∨ s.node.state = .leaving →
            s.FaultEntered u ∧ u.tx = { s.tx with engine := .stopped } ∧
            u.announce = { s.announce with holdOff := none, remembered := false, waiting := false } ∧
            u.line = { s.line with
              drive := .idle, wait := .none
              quiet := if s.line.drive ≠ .idle ∧ s.line.run = none ∧ s.line.receiveOpen = true then .counting s.now
                else s.line.quiet } ∧
            s.Raised u [
              { kind := .duplicateStation, count := s.merge.periodCount, station := some s.cfg.station,
                detail := some f.burst.payload.kind, value := some (f.burst.seq : Int) },
              { kind := .nodeState, count := s.merge.periodCount, detail := some 4,
                value := some (s.node.state.code : Int) }])) ∧
        (∀ pairs, f.burst.source = s.cfg.station → s.cfg.station ≠ 0 → f.own = true → f.burst.payload = .level pairs →
          u.peers = s.peers ∧ u.players = s.players ∧ u.counters = s.counters ∧ stays ∧ s.Raised u [] ∧
          u.sender = { s.sender with
            lastSent := u.sender.lastSent, lastRequest := some f.burst.request, pending := u.sender.pending } ∧
          ((pairs.Pairwise fun a b => a.1 < b.1) →
            u.sources = s.sources.map fun e => match pairs.find? fun q => q.1 == e.channel with
              | some q => if e.station = s.cfg.station ∧ (s.channel e.channel).produce = true
                  then { e with held := .valid (if q.2 = -32768 then -32767 else q.2)
                                lastUpdate := some s.merge.periodCount }
                  else e
              | none => e) ∧
          (∀ c, (∀ p ∈ pairs, p.1 ≠ c) → u.sender.lastSent.getD c none = s.sender.lastSent.getD c none) ∧
          (s.sender.lastSent.length = 16 → (pairs.Pairwise fun a b => a.1 < b.1) → ∀ p ∈ pairs, p.1 < 16 →
            u.sender.lastSent.getD p.1 none = some (if p.2 = -32768 then -32767 else p.2))) ∧
        (f.burst.source = s.cfg.station → s.cfg.station ≠ 0 → f.own = true →
          f.burst.payload.kind = 1 ∨ f.burst.payload = .bye →
          u.peers = s.peers ∧ u.sources = s.sources ∧ u.players = s.players ∧ u.counters = s.counters ∧ s.Raised u [] ∧
          stays ∧ senderStays ∧ (settled → u = { s with fifo := rest })) ∧
        (s.peers.length = 15 → 1 ≤ f.burst.source → f.burst.source ≤ 15 → f.burst.source ≠ s.cfg.station →
          f.own = false → f.burst.payload = .bye → (s.peerAt f.burst.source).link = .absent →
          u.peerAt f.burst.source = { s.peerAt f.burst.source with lastRequest := some f.burst.request } ∧
          (∀ y, y ≠ f.burst.source → u.peerAt y = s.peerAt y) ∧ u.sources = s.sources ∧ u.players = s.players ∧
          u.counters = s.counters ∧ s.Raised u [] ∧ stays ∧ senderStays ∧
          (settled → u = { s with fifo := rest, peers := u.peers })) ∧
        (s.peers.length = 15 → 1 ≤ f.burst.source → f.burst.source ≤ 15 → f.burst.source ≠ s.cfg.station →
          f.own = false → f.burst.payload = .bye → (s.peerAt f.burst.source).link ≠ .absent →
          let x := f.burst.source
          let p := s.peerAt x
          u.peerAt x = { p with
            link := .absent, role := none, declared := [], lastRequest := some f.burst.request, silence := none
            forget := none, expected := none, assembly := none
            gaps := match p.expected with
              | some e => min 65535 (p.gaps + (f.burst.seq + 256 - e) % 256)
              | none => p.gaps } ∧
          u.sources = (s.sources.filterMap fun e =>
            if e.station = x then match e.held with
              | .empty => none
              | .valid v => some { e with held := .fading v, declared := false }
              | .fading v => some { e with held := .fading v, declared := false }
            else some e) ∧
          u.players = (s.players.map fun q => q.map fun p =>
            if p.source = x ∧ p.state = .playing ∧ ∃ r, s.store.profile p.profile = some r ∧ r.endMode = .loop then
              { p with state := .fading, fadeLevel := 8 }
            else p) ∧
          (∀ y, y ≠ x → u.peerAt y = s.peerAt y) ∧
          u.counters = s.counters ∧ stays ∧ senderStays ∧
          s.Raised u [{ kind := .peerLeft, count := s.merge.periodCount, station := some x }]) ∧
        u = { s with fifo := rest, line := u.line, peers := u.peers, announce := u.announce, sources := u.sources,
                     players := u.players, output := u.output, tx := u.tx, sender := u.sender, node := u.node,
                     counters := u.counters, port := u.port, events := u.events })

/-- The pages of a peer's announce group, after the header steps that every page has: a page 0 of more than one page begins an
assembly, in the place of one in progress and in any link state; the continuation page that the assembly expects adds its
declarations; any other discards the assembly and is dropped with BAD_BURST, reason FORMAT. The peer's link, role and declared set
stay as they were, and the vote is taken, with its records (R66, R69, R79, R96, R98, R99). The completion of a group is the next
statement. -/
def Obligations.PagesAreGathered : Prop :=
  ∀ (s : State) (f : FifoEntry) (rest : List FifoEntry),
    s.inReset = false → s.merge.pass = none → s.peers.length = 15 → s.fifo = f :: rest → f.own = false →
    1 ≤ f.burst.source → f.burst.source ≤ 15 → f.burst.source ≠ s.cfg.station →
    let x := f.burst.source
    let p := s.peerAt x
    let heard := p.link = .present ∨ p.link = .holding
    let comesTo := fun (assembly : Option Assembly) (bad : Bool) => ∃ u, exec .applyBurst s = .next u ∧ u.fifo = rest ∧ u.Voted ∧
      u.peerAt x = { p with
        lastRequest := some f.burst.request
        gaps := match p.expected with
          | some e => if p.link = .absent then p.gaps else min 65535 (p.gaps + (f.burst.seq + 256 - e) % 256)
          | none => p.gaps
        expected := if heard then some ((f.burst.seq + 1) % 256) else p.expected
        silence := if heard then some s.now else p.silence
        assembly } ∧
      (∀ y, y ≠ x → u.peerAt y = s.peerAt y) ∧
      u.counters = { s.counters with
        badBursts := if bad then min 65535 (s.counters.badBursts + 1) else s.counters.badBursts } ∧
      s.Raised u (if bad then [{ kind := .badBurst, count := s.merge.periodCount, station := some x, detail := some 4 }]
        else []) ∧ s.RequestTold u ∧ u.sender = { s.sender with pending := u.sender.pending } ∧
      u = { s with fifo := rest, line := u.line, peers := u.peers, announce := u.announce, output := u.output, tx := u.tx,
                   sender := u.sender, counters := u.counters, events := u.events }
    (∀ count role known decls, f.burst.payload = .page0 count role known decls → count ≠ 1 →
      comesTo (some { expected := count, next := 1, role, decls, known, startedAt := s.now }) false) ∧
    (∀ decls a, f.burst.payload = .page a.next a.expected decls → p.assembly = some a → a.next + 1 ≠ a.expected →
      comesTo (some { a with decls := a.decls ++ decls, next := a.next + 1 }) false) ∧
    (∀ index count decls, f.burst.payload = .page index count decls →
      (∀ a, p.assembly = some a → index ≠ a.next ∨ count ≠ a.expected) → comesTo none true)

/-- A peer's announce group completes, with its only page or with the last one its assembly expects. Its declared set is, in
ascending order, each declared channel with the rank of its last appearance, held at 7. The peer is PRESENT with that set and the
role of page 0, its silence timer runs and its forget timer does not; an entry of a declared channel is kept with the new rank,
one no longer declared is undeclared or removed, and the other declared channels have new EMPTY ones; PEER_JOINED is raised as new
for an ABSENT peer and as a rejoin for any other, then RANK_CONFLICT for each declaration that another station holds at the same
rank; where the known mask does not name this node a re-announce is asked for; and the vote is taken, with its records (R5, R6,
R69, R79, R96, R99 to R103, R104, R105). The model's own here: log entries 3 and 26. -/
def Obligations.GroupCompletes : Prop :=
  ∀ (s : State) (f : FifoEntry) (rest : List FifoEntry) (role : Nat) (known : BitVec 16) (decls : List Declaration),
    s.inReset = false → s.merge.pass = none → s.peers.length = 15 → s.fifo = f :: rest → f.own = false →
    1 ≤ f.burst.source → f.burst.source ≤ 15 → f.burst.source ≠ s.cfg.station →
    let x := f.burst.source
    let p := s.peerAt x
    (f.burst.payload = .page0 1 role known decls ∨
      ∃ a last, f.burst.payload = .page a.next a.expected last ∧ p.assembly = some a ∧ a.next + 1 = a.expected ∧
        role = a.role ∧ known = a.known ∧ decls = a.decls ++ last) →
    ∃ u, exec .applyBurst s = .next u ∧ u.fifo = rest ∧ u.Voted ∧ (∀ y, y ≠ x → u.peerAt y = s.peerAt y) ∧
      (let set := (u.peerAt x).declared
       (set.Pairwise fun a b => a.1 < b.1) ∧
       (∀ c r, (c, r) ∈ set ↔ c ≤ 15 ∧ ∃ before q after,
         decls = before ++ (c, q) :: after ∧ (∀ d ∈ after, d.1 ≠ c) ∧ r = min 7 q) ∧
       (1 ≤ role → role ≤ 5 → roleCode (u.peerAt x).role = role) ∧ (role = 0 ∨ 5 < role → (u.peerAt x).role = none) ∧
       u.peerAt x = { p with
         link := .present, role := (u.peerAt x).role, declared := set, lastRequest := some f.burst.request
         silence := some s.now, forget := none, expected := none, assembly := none
         gaps := match p.expected with
           | some e => if p.link = .absent then p.gaps else min 65535 (p.gaps + (f.burst.seq + 256 - e) % 256)
           | none => p.gaps } ∧
       u.sources = (s.sources.filterMap fun e =>
           if e.station = x then match set.find? fun d => d.1 == e.channel with
             | some d => some { e with rank := d.2, declared := true }
             | none => match e.held with
               | .empty => none
               | .valid v => some { e with held := .fading v, declared := false }
               | .fading v => some { e with held := .fading v, declared := false }
           else some e) ++
         ((set.filter fun d => !s.sources.any fun e => e.station == x && e.channel == d.1).map fun d => {
           station := x, channel := d.1, held := .empty, rank := d.2, declared := true, lastUpdate := none }) ∧
       (let records : List Record :=
         { kind := .peerJoined, count := s.merge.periodCount, station := some x
           detail := some (if p.link = .absent then 0 else 1), value := some (roleCode (u.peerAt x).role : Int) } ::
         set.flatMap fun d => ((List.range 15).map (· + 1)).filterMap fun st =>
           if st ≠ x ∧ (s.peerAt st).link ≠ .absent ∧ d ∈ (s.peerAt st).declared then
             some { kind := .rankConflict, count := s.merge.periodCount, station := some x, second := some st,
                    channel := some d.1, value := some (d.2 : Int) }
           else none
        s.Raised u records)) ∧
      (known.getLsbD s.cfg.station = true → s.RequestTold u) ∧
      (known.getLsbD s.cfg.station = false → { s with peers := u.peers }.AnnounceTold u) ∧
      u.sender = { s.sender with pending := u.sender.pending } ∧
      u = { s with fifo := rest, line := u.line, peers := u.peers, announce := u.announce, sources := u.sources,
                   output := u.output, tx := u.tx, sender := u.sender, events := u.events }
end

