-- ==== Sys2Proof/Laws/Frames.lean ====
section
/-! SUPPORT. What each shared operation leaves alone: one lemma an operation, naming every field of the state it keeps. Simp
takes each part of such a lemma as a rule of its own, so no proof unfolds a record update. -/

namespace Sys2Proof.Machine

/-- A fold of changes to the event unit alone changes the event unit alone. -/
theorem foldl_events {β : Type} (f : State → β → State) (hf : ∀ s b, ∃ e, f s b = { s with events := e }) (l : List β) :
    ∀ s, ∃ e, l.foldl f s = { s with events := e } := by
  induction l with
  | nil => intro s; exact ⟨s.events, rfl⟩
  | cons b l ih =>
    intro s
    obtain ⟨e, h⟩ := hf s b
    obtain ⟨e', h'⟩ := ih (f s b)
    exact ⟨e', by rw [List.foldl_cons, h', h]⟩

@[simp] theorem State.advance_frame (s : State) (t : Nat) :
    (s.advance t).pending = s.pending ∧ (s.advance t).inReset = s.inReset ∧ (s.advance t).haltLow = s.haltLow ∧
    (s.advance t).strobes = s.strobes ∧ (s.advance t).cfg = s.cfg ∧ (s.advance t).store = s.store ∧
    (s.advance t).line = s.line ∧ (s.advance t).fifo = s.fifo ∧ (s.advance t).peers = s.peers ∧
    (s.advance t).announce = s.announce ∧ (s.advance t).sources = s.sources ∧ (s.advance t).players = s.players ∧
    (s.advance t).merge = s.merge ∧ (s.advance t).output = s.output ∧ (s.advance t).monitor = s.monitor ∧
    (s.advance t).tx = s.tx ∧ (s.advance t).sender = s.sender ∧ (s.advance t).node = s.node ∧
    (s.advance t).counters = s.counters ∧ (s.advance t).port = s.port ∧ (s.advance t).events = s.events :=
    ⟨rfl, rfl, rfl, rfl, rfl, rfl, rfl, rfl, rfl, rfl, rfl, rfl, rfl, rfl, rfl, rfl, rfl, rfl, rfl, rfl, rfl⟩

@[simp] theorem State.report_frame (s : State) (k : EventKind) (a b c d : Option Nat) (v : Option Int) :
    (s.report k a b c d v).pending = s.pending ∧ (s.report k a b c d v).now = s.now ∧
    (s.report k a b c d v).inReset = s.inReset ∧ (s.report k a b c d v).haltLow = s.haltLow ∧
    (s.report k a b c d v).strobes = s.strobes ∧ (s.report k a b c d v).cfg = s.cfg ∧
    (s.report k a b c d v).store = s.store ∧ (s.report k a b c d v).line = s.line ∧
    (s.report k a b c d v).fifo = s.fifo ∧ (s.report k a b c d v).peers = s.peers ∧
    (s.report k a b c d v).announce = s.announce ∧ (s.report k a b c d v).sources = s.sources ∧
    (s.report k a b c d v).players = s.players ∧ (s.report k a b c d v).merge = s.merge ∧
    (s.report k a b c d v).output = s.output ∧ (s.report k a b c d v).monitor = s.monitor ∧
    (s.report k a b c d v).tx = s.tx ∧ (s.report k a b c d v).sender = s.sender ∧
    (s.report k a b c d v).node = s.node ∧ (s.report k a b c d v).counters = s.counters ∧
    (s.report k a b c d v).port = s.port :=
    ⟨rfl, rfl, rfl, rfl, rfl, rfl, rfl, rfl, rfl, rfl, rfl, rfl, rfl, rfl, rfl, rfl, rfl, rfl, rfl, rfl, rfl⟩

@[simp] theorem State.reportBad_frame (s : State) (r : BadReason) (a : Option Nat) (v : Option Int) :
    (s.reportBad r a v).pending = s.pending ∧ (s.reportBad r a v).now = s.now ∧
    (s.reportBad r a v).inReset = s.inReset ∧ (s.reportBad r a v).haltLow = s.haltLow ∧
    (s.reportBad r a v).strobes = s.strobes ∧ (s.reportBad r a v).cfg = s.cfg ∧ (s.reportBad r a v).store = s.store ∧
    (s.reportBad r a v).line = s.line ∧ (s.reportBad r a v).fifo = s.fifo ∧ (s.reportBad r a v).peers = s.peers ∧
    (s.reportBad r a v).announce = s.announce ∧ (s.reportBad r a v).sources = s.sources ∧
    (s.reportBad r a v).players = s.players ∧ (s.reportBad r a v).merge = s.merge ∧
    (s.reportBad r a v).output = s.output ∧ (s.reportBad r a v).monitor = s.monitor ∧ (s.reportBad r a v).tx = s.tx ∧
    (s.reportBad r a v).sender = s.sender ∧ (s.reportBad r a v).node = s.node ∧ (s.reportBad r a v).port = s.port :=
    ⟨rfl, rfl, rfl, rfl, rfl, rfl, rfl, rfl, rfl, rfl, rfl, rfl, rfl, rfl, rfl, rfl, rfl, rfl, rfl, rfl⟩

@[simp] theorem State.reportDropped_frame (s : State) (r : DropReason) (a : Nat) (c : Option Nat) (e : Nat) :
    (s.reportDropped r a c e).pending = s.pending ∧ (s.reportDropped r a c e).now = s.now ∧
    (s.reportDropped r a c e).inReset = s.inReset ∧ (s.reportDropped r a c e).haltLow = s.haltLow ∧
    (s.reportDropped r a c e).strobes = s.strobes ∧ (s.reportDropped r a c e).cfg = s.cfg ∧
    (s.reportDropped r a c e).store = s.store ∧ (s.reportDropped r a c e).line = s.line ∧
    (s.reportDropped r a c e).fifo = s.fifo ∧ (s.reportDropped r a c e).peers = s.peers ∧
    (s.reportDropped r a c e).announce = s.announce ∧ (s.reportDropped r a c e).sources = s.sources ∧
    (s.reportDropped r a c e).players = s.players ∧ (s.reportDropped r a c e).merge = s.merge ∧
    (s.reportDropped r a c e).output = s.output ∧ (s.reportDropped r a c e).monitor = s.monitor ∧
    (s.reportDropped r a c e).tx = s.tx ∧ (s.reportDropped r a c e).sender = s.sender ∧
    (s.reportDropped r a c e).node = s.node ∧ (s.reportDropped r a c e).counters = s.counters ∧
    (s.reportDropped r a c e).port = s.port :=
    ⟨rfl, rfl, rfl, rfl, rfl, rfl, rfl, rfl, rfl, rfl, rfl, rfl, rfl, rfl, rfl, rfl, rfl, rfl, rfl, rfl, rfl⟩

@[simp] theorem State.answer_frame (s : State) (r : Result) (d : List Byte) :
    (s.answer r d).pending = s.pending ∧ (s.answer r d).now = s.now ∧ (s.answer r d).inReset = s.inReset ∧
    (s.answer r d).haltLow = s.haltLow ∧ (s.answer r d).strobes = s.strobes ∧ (s.answer r d).cfg = s.cfg ∧
    (s.answer r d).store = s.store ∧ (s.answer r d).line = s.line ∧ (s.answer r d).fifo = s.fifo ∧
    (s.answer r d).peers = s.peers ∧ (s.answer r d).announce = s.announce ∧ (s.answer r d).sources = s.sources ∧
    (s.answer r d).players = s.players ∧ (s.answer r d).merge = s.merge ∧ (s.answer r d).output = s.output ∧
    (s.answer r d).monitor = s.monitor ∧ (s.answer r d).tx = s.tx ∧ (s.answer r d).sender = s.sender ∧
    (s.answer r d).node = s.node ∧ (s.answer r d).counters = s.counters ∧ (s.answer r d).events = s.events :=
    ⟨rfl, rfl, rfl, rfl, rfl, rfl, rfl, rfl, rfl, rfl, rfl, rfl, rfl, rfl, rfl, rfl, rfl, rfl, rfl, rfl, rfl⟩

@[simp] theorem State.endBlocking_frame (s : State) :
    (s.endBlocking).pending = s.pending ∧ (s.endBlocking).now = s.now ∧ (s.endBlocking).inReset = s.inReset ∧
    (s.endBlocking).haltLow = s.haltLow ∧ (s.endBlocking).strobes = s.strobes ∧ (s.endBlocking).cfg = s.cfg ∧
    (s.endBlocking).store = s.store ∧ (s.endBlocking).line = s.line ∧ (s.endBlocking).fifo = s.fifo ∧
    (s.endBlocking).peers = s.peers ∧ (s.endBlocking).announce = s.announce ∧ (s.endBlocking).sources = s.sources ∧
    (s.endBlocking).players = s.players ∧ (s.endBlocking).merge = s.merge ∧ (s.endBlocking).output = s.output ∧
    (s.endBlocking).monitor = s.monitor ∧ (s.endBlocking).tx = s.tx ∧ (s.endBlocking).sender = s.sender ∧
    (s.endBlocking).node = s.node ∧ (s.endBlocking).counters = s.counters ∧ (s.endBlocking).events = s.events :=
    ⟨rfl, rfl, rfl, rfl, rfl, rfl, rfl, rfl, rfl, rfl, rfl, rfl, rfl, rfl, rfl, rfl, rfl, rfl, rfl, rfl, rfl⟩

@[simp] theorem State.countTxDropped_frame (s : State) :
    (s.countTxDropped).pending = s.pending ∧ (s.countTxDropped).now = s.now ∧
    (s.countTxDropped).inReset = s.inReset ∧ (s.countTxDropped).haltLow = s.haltLow ∧
    (s.countTxDropped).strobes = s.strobes ∧ (s.countTxDropped).cfg = s.cfg ∧ (s.countTxDropped).store = s.store ∧
    (s.countTxDropped).line = s.line ∧ (s.countTxDropped).fifo = s.fifo ∧ (s.countTxDropped).peers = s.peers ∧
    (s.countTxDropped).announce = s.announce ∧ (s.countTxDropped).sources = s.sources ∧
    (s.countTxDropped).players = s.players ∧ (s.countTxDropped).merge = s.merge ∧
    (s.countTxDropped).output = s.output ∧ (s.countTxDropped).monitor = s.monitor ∧ (s.countTxDropped).tx = s.tx ∧
    (s.countTxDropped).sender = s.sender ∧ (s.countTxDropped).node = s.node ∧ (s.countTxDropped).port = s.port ∧
    (s.countTxDropped).events = s.events :=
    ⟨rfl, rfl, rfl, rfl, rfl, rfl, rfl, rfl, rfl, rfl, rfl, rfl, rfl, rfl, rfl, rfl, rfl, rfl, rfl, rfl, rfl⟩

@[simp] theorem State.countCollision_frame (s : State) :
    (s.countCollision).pending = s.pending ∧ (s.countCollision).now = s.now ∧
    (s.countCollision).inReset = s.inReset ∧ (s.countCollision).haltLow = s.haltLow ∧
    (s.countCollision).strobes = s.strobes ∧ (s.countCollision).cfg = s.cfg ∧ (s.countCollision).store = s.store ∧
    (s.countCollision).line = s.line ∧ (s.countCollision).fifo = s.fifo ∧ (s.countCollision).peers = s.peers ∧
    (s.countCollision).announce = s.announce ∧ (s.countCollision).sources = s.sources ∧
    (s.countCollision).players = s.players ∧ (s.countCollision).merge = s.merge ∧
    (s.countCollision).output = s.output ∧ (s.countCollision).monitor = s.monitor ∧ (s.countCollision).tx = s.tx ∧
    (s.countCollision).sender = s.sender ∧ (s.countCollision).node = s.node ∧ (s.countCollision).port = s.port ∧
    (s.countCollision).events = s.events :=
    ⟨rfl, rfl, rfl, rfl, rfl, rfl, rfl, rfl, rfl, rfl, rfl, rfl, rfl, rfl, rfl, rfl, rfl, rfl, rfl, rfl, rfl⟩

@[simp] theorem State.mapPeer_frame (s : State) (n : Nat) (f : PeerRecord → PeerRecord) :
    (s.mapPeer n f).pending = s.pending ∧ (s.mapPeer n f).now = s.now ∧ (s.mapPeer n f).inReset = s.inReset ∧
    (s.mapPeer n f).haltLow = s.haltLow ∧ (s.mapPeer n f).strobes = s.strobes ∧ (s.mapPeer n f).cfg = s.cfg ∧
    (s.mapPeer n f).store = s.store ∧ (s.mapPeer n f).line = s.line ∧ (s.mapPeer n f).fifo = s.fifo ∧
    (s.mapPeer n f).announce = s.announce ∧ (s.mapPeer n f).sources = s.sources ∧
    (s.mapPeer n f).players = s.players ∧ (s.mapPeer n f).merge = s.merge ∧ (s.mapPeer n f).output = s.output ∧
    (s.mapPeer n f).monitor = s.monitor ∧ (s.mapPeer n f).tx = s.tx ∧ (s.mapPeer n f).sender = s.sender ∧
    (s.mapPeer n f).node = s.node ∧ (s.mapPeer n f).counters = s.counters ∧ (s.mapPeer n f).port = s.port ∧
    (s.mapPeer n f).events = s.events := by
  cases n <;> exact ⟨rfl, rfl, rfl, rfl, rfl, rfl, rfl, rfl, rfl, rfl, rfl, rfl, rfl, rfl, rfl, rfl, rfl, rfl, rfl, rfl, rfl⟩

@[simp] theorem State.setPlayer_frame (s : State) (n : Nat) (p : Option Player) :
    (s.setPlayer n p).pending = s.pending ∧ (s.setPlayer n p).now = s.now ∧ (s.setPlayer n p).inReset = s.inReset ∧
    (s.setPlayer n p).haltLow = s.haltLow ∧ (s.setPlayer n p).strobes = s.strobes ∧ (s.setPlayer n p).cfg = s.cfg ∧
    (s.setPlayer n p).store = s.store ∧ (s.setPlayer n p).line = s.line ∧ (s.setPlayer n p).fifo = s.fifo ∧
    (s.setPlayer n p).peers = s.peers ∧ (s.setPlayer n p).announce = s.announce ∧
    (s.setPlayer n p).sources = s.sources ∧ (s.setPlayer n p).merge = s.merge ∧ (s.setPlayer n p).output = s.output ∧
    (s.setPlayer n p).monitor = s.monitor ∧ (s.setPlayer n p).tx = s.tx ∧ (s.setPlayer n p).sender = s.sender ∧
    (s.setPlayer n p).node = s.node ∧ (s.setPlayer n p).counters = s.counters ∧ (s.setPlayer n p).port = s.port ∧
    (s.setPlayer n p).events = s.events :=
    ⟨rfl, rfl, rfl, rfl, rfl, rfl, rfl, rfl, rfl, rfl, rfl, rfl, rfl, rfl, rfl, rfl, rfl, rfl, rfl, rfl, rfl⟩

@[simp] theorem State.changeStage_frame (s : State) (g : Stage) :
    (s.changeStage g).pending = s.pending ∧ (s.changeStage g).now = s.now ∧ (s.changeStage g).inReset = s.inReset ∧
    (s.changeStage g).haltLow = s.haltLow ∧ (s.changeStage g).strobes = s.strobes ∧ (s.changeStage g).cfg = s.cfg ∧
    (s.changeStage g).store = s.store ∧ (s.changeStage g).line = s.line ∧ (s.changeStage g).fifo = s.fifo ∧
    (s.changeStage g).peers = s.peers ∧ (s.changeStage g).announce = s.announce ∧
    (s.changeStage g).sources = s.sources ∧ (s.changeStage g).players = s.players ∧
    (s.changeStage g).merge = s.merge ∧ (s.changeStage g).monitor = s.monitor ∧ (s.changeStage g).tx = s.tx ∧
    (s.changeStage g).sender = s.sender ∧ (s.changeStage g).node = s.node ∧ (s.changeStage g).counters = s.counters ∧
    (s.changeStage g).port = s.port :=
    ⟨rfl, rfl, rfl, rfl, rfl, rfl, rfl, rfl, rfl, rfl, rfl, rfl, rfl, rfl, rfl, rfl, rfl, rfl, rfl, rfl⟩

@[simp] theorem State.orphanPlayers_frame (s : State) (x : Nat) :
    (s.orphanPlayers x).pending = s.pending ∧ (s.orphanPlayers x).now = s.now ∧
    (s.orphanPlayers x).inReset = s.inReset ∧ (s.orphanPlayers x).haltLow = s.haltLow ∧
    (s.orphanPlayers x).strobes = s.strobes ∧ (s.orphanPlayers x).cfg = s.cfg ∧ (s.orphanPlayers x).store = s.store ∧
    (s.orphanPlayers x).line = s.line ∧ (s.orphanPlayers x).fifo = s.fifo ∧ (s.orphanPlayers x).peers = s.peers ∧
    (s.orphanPlayers x).announce = s.announce ∧ (s.orphanPlayers x).sources = s.sources ∧
    (s.orphanPlayers x).merge = s.merge ∧ (s.orphanPlayers x).output = s.output ∧
    (s.orphanPlayers x).monitor = s.monitor ∧ (s.orphanPlayers x).tx = s.tx ∧ (s.orphanPlayers x).sender = s.sender ∧
    (s.orphanPlayers x).node = s.node ∧ (s.orphanPlayers x).counters = s.counters ∧
    (s.orphanPlayers x).port = s.port ∧ (s.orphanPlayers x).events = s.events :=
    ⟨rfl, rfl, rfl, rfl, rfl, rfl, rfl, rfl, rfl, rfl, rfl, rfl, rfl, rfl, rfl, rfl, rfl, rfl, rfl, rfl, rfl⟩

@[simp] theorem State.enterNode_frame (s : State) (n : NodeState) :
    (s.enterNode n).pending = s.pending ∧ (s.enterNode n).now = s.now ∧ (s.enterNode n).inReset = s.inReset ∧
    (s.enterNode n).haltLow = s.haltLow ∧ (s.enterNode n).strobes = s.strobes ∧ (s.enterNode n).cfg = s.cfg ∧
    (s.enterNode n).store = s.store ∧ (s.enterNode n).line = s.line ∧ (s.enterNode n).fifo = s.fifo ∧
    (s.enterNode n).peers = s.peers ∧ (s.enterNode n).announce = s.announce ∧ (s.enterNode n).sources = s.sources ∧
    (s.enterNode n).players = s.players ∧ (s.enterNode n).merge = s.merge ∧ (s.enterNode n).output = s.output ∧
    (s.enterNode n).monitor = s.monitor ∧ (s.enterNode n).tx = s.tx ∧ (s.enterNode n).sender = s.sender ∧
    (s.enterNode n).counters = s.counters ∧ (s.enterNode n).port = s.port :=
    ⟨rfl, rfl, rfl, rfl, rfl, rfl, rfl, rfl, rfl, rfl, rfl, rfl, rfl, rfl, rfl, rfl, rfl, rfl, rfl, rfl⟩

@[simp] theorem State.countUndeclared_frame (s : State) (x : Nat) :
    (s.countUndeclared x).pending = s.pending ∧ (s.countUndeclared x).now = s.now ∧
    (s.countUndeclared x).inReset = s.inReset ∧ (s.countUndeclared x).haltLow = s.haltLow ∧
    (s.countUndeclared x).strobes = s.strobes ∧ (s.countUndeclared x).cfg = s.cfg ∧
    (s.countUndeclared x).store = s.store ∧ (s.countUndeclared x).line = s.line ∧
    (s.countUndeclared x).fifo = s.fifo ∧ (s.countUndeclared x).announce = s.announce ∧
    (s.countUndeclared x).sources = s.sources ∧ (s.countUndeclared x).players = s.players ∧
    (s.countUndeclared x).merge = s.merge ∧ (s.countUndeclared x).output = s.output ∧
    (s.countUndeclared x).monitor = s.monitor ∧ (s.countUndeclared x).tx = s.tx ∧
    (s.countUndeclared x).sender = s.sender ∧ (s.countUndeclared x).node = s.node ∧
    (s.countUndeclared x).counters = s.counters ∧ (s.countUndeclared x).port = s.port ∧
    (s.countUndeclared x).events = s.events := by simp [State.countUndeclared]

@[simp] theorem State.publish_frame (s : State) (p : Pass) :
    (s.publish p).pending = s.pending ∧ (s.publish p).now = s.now ∧ (s.publish p).inReset = s.inReset ∧
    (s.publish p).haltLow = s.haltLow ∧ (s.publish p).cfg = s.cfg ∧ (s.publish p).store = s.store ∧
    (s.publish p).line = s.line ∧ (s.publish p).fifo = s.fifo ∧ (s.publish p).peers = s.peers ∧
    (s.publish p).announce = s.announce ∧ (s.publish p).sources = s.sources ∧ (s.publish p).players = s.players ∧
    (s.publish p).output = s.output ∧ (s.publish p).monitor = s.monitor ∧ (s.publish p).tx = s.tx ∧
    (s.publish p).sender = s.sender ∧ (s.publish p).node = s.node ∧ (s.publish p).counters = s.counters ∧
    (s.publish p).port = s.port ∧ (s.publish p).events = s.events :=
    ⟨rfl, rfl, rfl, rfl, rfl, rfl, rfl, rfl, rfl, rfl, rfl, rfl, rfl, rfl, rfl, rfl, rfl, rfl, rfl, rfl⟩

@[simp] theorem State.startAttempt_frame (s : State) (t : Nat) :
    (s.startAttempt t).pending = s.pending ∧ (s.startAttempt t).now = s.now ∧
    (s.startAttempt t).inReset = s.inReset ∧ (s.startAttempt t).haltLow = s.haltLow ∧
    (s.startAttempt t).strobes = s.strobes ∧ (s.startAttempt t).cfg = s.cfg ∧ (s.startAttempt t).store = s.store ∧
    (s.startAttempt t).fifo = s.fifo ∧ (s.startAttempt t).peers = s.peers ∧ (s.startAttempt t).sources = s.sources ∧
    (s.startAttempt t).players = s.players ∧ (s.startAttempt t).merge = s.merge ∧
    (s.startAttempt t).output = s.output ∧ (s.startAttempt t).monitor = s.monitor ∧
    (s.startAttempt t).sender = s.sender ∧ (s.startAttempt t).node = s.node ∧
    (s.startAttempt t).counters = s.counters ∧ (s.startAttempt t).port = s.port ∧
    (s.startAttempt t).events = s.events := by
  simp only [State.startAttempt]; (repeat' split) <;> simp

@[simp] theorem State.enterDefer_frame (s : State) :
    (s.enterDefer).pending = s.pending ∧ (s.enterDefer).now = s.now ∧ (s.enterDefer).inReset = s.inReset ∧
    (s.enterDefer).haltLow = s.haltLow ∧ (s.enterDefer).strobes = s.strobes ∧ (s.enterDefer).cfg = s.cfg ∧
    (s.enterDefer).store = s.store ∧ (s.enterDefer).fifo = s.fifo ∧ (s.enterDefer).peers = s.peers ∧
    (s.enterDefer).sources = s.sources ∧ (s.enterDefer).players = s.players ∧ (s.enterDefer).merge = s.merge ∧
    (s.enterDefer).output = s.output ∧ (s.enterDefer).monitor = s.monitor ∧ (s.enterDefer).sender = s.sender ∧
    (s.enterDefer).node = s.node ∧ (s.enterDefer).counters = s.counters ∧ (s.enterDefer).port = s.port ∧
    (s.enterDefer).events = s.events := by
  simp only [State.enterDefer]; (repeat' split) <;> simp

@[simp] theorem State.wake_frame (s : State) :
    (s.wake).pending = s.pending ∧ (s.wake).now = s.now ∧ (s.wake).inReset = s.inReset ∧
    (s.wake).haltLow = s.haltLow ∧ (s.wake).strobes = s.strobes ∧ (s.wake).cfg = s.cfg ∧ (s.wake).store = s.store ∧
    (s.wake).fifo = s.fifo ∧ (s.wake).peers = s.peers ∧ (s.wake).sources = s.sources ∧ (s.wake).players = s.players ∧
    (s.wake).merge = s.merge ∧ (s.wake).output = s.output ∧ (s.wake).monitor = s.monitor ∧
    (s.wake).sender = s.sender ∧ (s.wake).node = s.node ∧ (s.wake).counters = s.counters ∧ (s.wake).port = s.port ∧
    (s.wake).events = s.events := by
  simp only [State.wake]; (repeat' split) <;> simp

@[simp] theorem State.enqueue_frame (s : State) (e : TxEntry) :
    (s.enqueue e).pending = s.pending ∧ (s.enqueue e).now = s.now ∧ (s.enqueue e).inReset = s.inReset ∧
    (s.enqueue e).haltLow = s.haltLow ∧ (s.enqueue e).strobes = s.strobes ∧ (s.enqueue e).cfg = s.cfg ∧
    (s.enqueue e).store = s.store ∧ (s.enqueue e).fifo = s.fifo ∧ (s.enqueue e).peers = s.peers ∧
    (s.enqueue e).sources = s.sources ∧ (s.enqueue e).players = s.players ∧ (s.enqueue e).merge = s.merge ∧
    (s.enqueue e).output = s.output ∧ (s.enqueue e).monitor = s.monitor ∧ (s.enqueue e).sender = s.sender ∧
    (s.enqueue e).node = s.node ∧ (s.enqueue e).counters = s.counters ∧ (s.enqueue e).port = s.port ∧
    (s.enqueue e).events = s.events := by
  simp only [State.enqueue]; (repeat' split) <;> simp

@[simp] theorem State.nextEntry_frame (s : State) (b : Bool) :
    (s.nextEntry b).pending = s.pending ∧ (s.nextEntry b).now = s.now ∧ (s.nextEntry b).inReset = s.inReset ∧
    (s.nextEntry b).haltLow = s.haltLow ∧ (s.nextEntry b).strobes = s.strobes ∧ (s.nextEntry b).cfg = s.cfg ∧
    (s.nextEntry b).store = s.store ∧ (s.nextEntry b).fifo = s.fifo ∧ (s.nextEntry b).peers = s.peers ∧
    (s.nextEntry b).sources = s.sources ∧ (s.nextEntry b).players = s.players ∧ (s.nextEntry b).merge = s.merge ∧
    (s.nextEntry b).output = s.output ∧ (s.nextEntry b).monitor = s.monitor ∧ (s.nextEntry b).sender = s.sender ∧
    (s.nextEntry b).node = s.node ∧ (s.nextEntry b).counters = s.counters ∧ (s.nextEntry b).port = s.port ∧
    (s.nextEntry b).events = s.events := by
  simp only [State.nextEntry]; (repeat' split) <;> simp

@[simp] theorem State.queueLevel_frame (s : State) (h : Bool) :
    (s.queueLevel h).pending = s.pending ∧ (s.queueLevel h).now = s.now ∧ (s.queueLevel h).inReset = s.inReset ∧
    (s.queueLevel h).haltLow = s.haltLow ∧ (s.queueLevel h).strobes = s.strobes ∧ (s.queueLevel h).cfg = s.cfg ∧
    (s.queueLevel h).store = s.store ∧ (s.queueLevel h).fifo = s.fifo ∧ (s.queueLevel h).peers = s.peers ∧
    (s.queueLevel h).sources = s.sources ∧ (s.queueLevel h).players = s.players ∧ (s.queueLevel h).merge = s.merge ∧
    (s.queueLevel h).output = s.output ∧ (s.queueLevel h).monitor = s.monitor ∧ (s.queueLevel h).node = s.node ∧
    (s.queueLevel h).counters = s.counters ∧ (s.queueLevel h).port = s.port ∧ (s.queueLevel h).events = s.events := by
  simp only [State.queueLevel]; (repeat' split) <;> simp

@[simp] theorem State.joinGroup_frame (s : State) :
    (s.joinGroup).pending = s.pending ∧ (s.joinGroup).now = s.now ∧ (s.joinGroup).inReset = s.inReset ∧
    (s.joinGroup).haltLow = s.haltLow ∧ (s.joinGroup).strobes = s.strobes ∧ (s.joinGroup).cfg = s.cfg ∧
    (s.joinGroup).store = s.store ∧ (s.joinGroup).fifo = s.fifo ∧ (s.joinGroup).peers = s.peers ∧
    (s.joinGroup).sources = s.sources ∧ (s.joinGroup).players = s.players ∧ (s.joinGroup).merge = s.merge ∧
    (s.joinGroup).output = s.output ∧ (s.joinGroup).monitor = s.monitor ∧ (s.joinGroup).sender = s.sender ∧
    (s.joinGroup).node = s.node ∧ (s.joinGroup).counters = s.counters ∧ (s.joinGroup).port = s.port ∧
    (s.joinGroup).events = s.events := by
  simp only [State.joinGroup]; (repeat' split) <;> simp

@[simp] theorem State.queueGroup_frame (s : State) :
    (s.queueGroup).pending = s.pending ∧ (s.queueGroup).now = s.now ∧ (s.queueGroup).inReset = s.inReset ∧
    (s.queueGroup).haltLow = s.haltLow ∧ (s.queueGroup).strobes = s.strobes ∧ (s.queueGroup).cfg = s.cfg ∧
    (s.queueGroup).store = s.store ∧ (s.queueGroup).fifo = s.fifo ∧ (s.queueGroup).peers = s.peers ∧
    (s.queueGroup).sources = s.sources ∧ (s.queueGroup).players = s.players ∧ (s.queueGroup).merge = s.merge ∧
    (s.queueGroup).output = s.output ∧ (s.queueGroup).monitor = s.monitor ∧ (s.queueGroup).sender = s.sender ∧
    (s.queueGroup).node = s.node ∧ (s.queueGroup).counters = s.counters ∧ (s.queueGroup).port = s.port ∧
    (s.queueGroup).events = s.events := by
  simp only [State.queueGroup]; (repeat' split) <;> simp

@[simp] theorem State.settleWaiting_frame (s : State) :
    (s.settleWaiting).pending = s.pending ∧ (s.settleWaiting).now = s.now ∧ (s.settleWaiting).inReset = s.inReset ∧
    (s.settleWaiting).haltLow = s.haltLow ∧ (s.settleWaiting).strobes = s.strobes ∧ (s.settleWaiting).cfg = s.cfg ∧
    (s.settleWaiting).store = s.store ∧ (s.settleWaiting).fifo = s.fifo ∧ (s.settleWaiting).peers = s.peers ∧
    (s.settleWaiting).sources = s.sources ∧ (s.settleWaiting).players = s.players ∧
    (s.settleWaiting).merge = s.merge ∧ (s.settleWaiting).output = s.output ∧ (s.settleWaiting).monitor = s.monitor ∧
    (s.settleWaiting).node = s.node ∧ (s.settleWaiting).counters = s.counters ∧ (s.settleWaiting).port = s.port ∧
    (s.settleWaiting).events = s.events := by
  simp only [State.settleWaiting]; (repeat' split) <;> simp

@[simp] theorem State.requestAnnounce_frame (s : State) :
    (s.requestAnnounce).pending = s.pending ∧ (s.requestAnnounce).now = s.now ∧
    (s.requestAnnounce).inReset = s.inReset ∧ (s.requestAnnounce).haltLow = s.haltLow ∧
    (s.requestAnnounce).strobes = s.strobes ∧ (s.requestAnnounce).cfg = s.cfg ∧ (s.requestAnnounce).store = s.store ∧
    (s.requestAnnounce).fifo = s.fifo ∧ (s.requestAnnounce).peers = s.peers ∧
    (s.requestAnnounce).sources = s.sources ∧ (s.requestAnnounce).players = s.players ∧
    (s.requestAnnounce).merge = s.merge ∧ (s.requestAnnounce).output = s.output ∧
    (s.requestAnnounce).monitor = s.monitor ∧ (s.requestAnnounce).sender = s.sender ∧
    (s.requestAnnounce).node = s.node ∧ (s.requestAnnounce).counters = s.counters ∧
    (s.requestAnnounce).port = s.port ∧ (s.requestAnnounce).events = s.events := by
  simp only [State.requestAnnounce]; (repeat' split) <;> simp

@[simp] theorem State.endJoin_frame (s : State) :
    (s.endJoin).pending = s.pending ∧ (s.endJoin).now = s.now ∧ (s.endJoin).inReset = s.inReset ∧
    (s.endJoin).haltLow = s.haltLow ∧ (s.endJoin).strobes = s.strobes ∧ (s.endJoin).cfg = s.cfg ∧
    (s.endJoin).store = s.store ∧ (s.endJoin).line = s.line ∧ (s.endJoin).fifo = s.fifo ∧
    (s.endJoin).peers = s.peers ∧ (s.endJoin).announce = s.announce ∧ (s.endJoin).sources = s.sources ∧
    (s.endJoin).players = s.players ∧ (s.endJoin).merge = s.merge ∧ (s.endJoin).output = s.output ∧
    (s.endJoin).monitor = s.monitor ∧ (s.endJoin).tx = s.tx ∧ (s.endJoin).sender = s.sender ∧
    (s.endJoin).counters = s.counters ∧ (s.endJoin).events = s.events := by
  simp only [State.endJoin]; (repeat' split) <;> simp

@[simp] theorem State.groupOver_frame (s : State) (b : Bool) :
    (s.groupOver b).pending = s.pending ∧ (s.groupOver b).now = s.now ∧ (s.groupOver b).inReset = s.inReset ∧
    (s.groupOver b).haltLow = s.haltLow ∧ (s.groupOver b).strobes = s.strobes ∧ (s.groupOver b).cfg = s.cfg ∧
    (s.groupOver b).store = s.store ∧ (s.groupOver b).fifo = s.fifo ∧ (s.groupOver b).peers = s.peers ∧
    (s.groupOver b).sources = s.sources ∧ (s.groupOver b).players = s.players ∧ (s.groupOver b).merge = s.merge ∧
    (s.groupOver b).output = s.output ∧ (s.groupOver b).monitor = s.monitor ∧ (s.groupOver b).sender = s.sender ∧
    (s.groupOver b).counters = s.counters ∧ (s.groupOver b).events = s.events := by
  simp only [State.groupOver]; (repeat' split) <;> simp

@[simp] theorem State.dropCurrent_frame (s : State) (r : TxReason) :
    (s.dropCurrent r).pending = s.pending ∧ (s.dropCurrent r).now = s.now ∧ (s.dropCurrent r).inReset = s.inReset ∧
    (s.dropCurrent r).haltLow = s.haltLow ∧ (s.dropCurrent r).strobes = s.strobes ∧ (s.dropCurrent r).cfg = s.cfg ∧
    (s.dropCurrent r).store = s.store ∧ (s.dropCurrent r).fifo = s.fifo ∧ (s.dropCurrent r).peers = s.peers ∧
    (s.dropCurrent r).sources = s.sources ∧ (s.dropCurrent r).players = s.players ∧
    (s.dropCurrent r).merge = s.merge ∧ (s.dropCurrent r).output = s.output ∧ (s.dropCurrent r).monitor = s.monitor := by
  simp only [State.dropCurrent]; (repeat' split) <;> simp

@[simp] theorem State.dropStale_frame (s : State) (i : Nat) (x : TriggerItem) :
    (s.dropStale i x).pending = s.pending ∧ (s.dropStale i x).now = s.now ∧ (s.dropStale i x).inReset = s.inReset ∧
    (s.dropStale i x).haltLow = s.haltLow ∧ (s.dropStale i x).strobes = s.strobes ∧ (s.dropStale i x).cfg = s.cfg ∧
    (s.dropStale i x).store = s.store ∧ (s.dropStale i x).fifo = s.fifo ∧ (s.dropStale i x).peers = s.peers ∧
    (s.dropStale i x).sources = s.sources ∧ (s.dropStale i x).players = s.players ∧
    (s.dropStale i x).merge = s.merge ∧ (s.dropStale i x).output = s.output ∧ (s.dropStale i x).monitor = s.monitor ∧
    (s.dropStale i x).node = s.node ∧ (s.dropStale i x).port = s.port := by
  simp only [State.dropStale]; (repeat' split) <;> simp

@[simp] theorem State.keepForRetry_frame (s : State) (e : TxEntry) :
    (s.keepForRetry e).pending = s.pending ∧ (s.keepForRetry e).now = s.now ∧
    (s.keepForRetry e).inReset = s.inReset ∧ (s.keepForRetry e).haltLow = s.haltLow ∧
    (s.keepForRetry e).strobes = s.strobes ∧ (s.keepForRetry e).cfg = s.cfg ∧
    (s.keepForRetry e).store = s.store ∧ (s.keepForRetry e).fifo = s.fifo ∧
    (s.keepForRetry e).peers = s.peers ∧ (s.keepForRetry e).sources = s.sources ∧
    (s.keepForRetry e).players = s.players ∧ (s.keepForRetry e).merge = s.merge ∧
    (s.keepForRetry e).output = s.output ∧ (s.keepForRetry e).monitor = s.monitor ∧
    (s.keepForRetry e).sender = s.sender ∧ (s.keepForRetry e).node = s.node ∧
    (s.keepForRetry e).counters = s.counters ∧ (s.keepForRetry e).port = s.port ∧
    (s.keepForRetry e).events = s.events := by
  simp only [State.keepForRetry]; (repeat' split) <;> simp

@[simp] theorem State.attemptFailed_frame (s : State) :
    (s.attemptFailed).pending = s.pending ∧ (s.attemptFailed).now = s.now ∧
    (s.attemptFailed).inReset = s.inReset ∧ (s.attemptFailed).haltLow = s.haltLow ∧
    (s.attemptFailed).strobes = s.strobes ∧ (s.attemptFailed).cfg = s.cfg ∧
    (s.attemptFailed).store = s.store ∧ (s.attemptFailed).fifo = s.fifo ∧
    (s.attemptFailed).peers = s.peers ∧ (s.attemptFailed).sources = s.sources ∧
    (s.attemptFailed).players = s.players ∧ (s.attemptFailed).merge = s.merge ∧
    (s.attemptFailed).output = s.output ∧ (s.attemptFailed).monitor = s.monitor := by
  simp only [State.attemptFailed]; (repeat' split) <;> simp

@[simp] theorem State.formRequest_frame (s : State) :
    (s.formRequest).pending = s.pending ∧ (s.formRequest).now = s.now ∧ (s.formRequest).inReset = s.inReset ∧
    (s.formRequest).haltLow = s.haltLow ∧ (s.formRequest).strobes = s.strobes ∧ (s.formRequest).cfg = s.cfg ∧
    (s.formRequest).store = s.store ∧ (s.formRequest).fifo = s.fifo ∧ (s.formRequest).peers = s.peers ∧
    (s.formRequest).sources = s.sources ∧ (s.formRequest).players = s.players ∧ (s.formRequest).merge = s.merge ∧
    (s.formRequest).monitor = s.monitor ∧ (s.formRequest).node = s.node ∧ (s.formRequest).counters = s.counters ∧
    (s.formRequest).port = s.port ∧ (s.formRequest).events = s.events := by
  simp only [State.formRequest]; (repeat' split) <;> simp

@[simp] theorem State.evaluateMode_frame (s : State) :
    (s.evaluateMode).pending = s.pending ∧ (s.evaluateMode).now = s.now ∧ (s.evaluateMode).inReset = s.inReset ∧
    (s.evaluateMode).haltLow = s.haltLow ∧ (s.evaluateMode).strobes = s.strobes ∧ (s.evaluateMode).cfg = s.cfg ∧
    (s.evaluateMode).store = s.store ∧ (s.evaluateMode).line = s.line ∧ (s.evaluateMode).fifo = s.fifo ∧
    (s.evaluateMode).peers = s.peers ∧ (s.evaluateMode).announce = s.announce ∧
    (s.evaluateMode).sources = s.sources ∧ (s.evaluateMode).players = s.players ∧ (s.evaluateMode).merge = s.merge ∧
    (s.evaluateMode).monitor = s.monitor ∧ (s.evaluateMode).tx = s.tx ∧ (s.evaluateMode).sender = s.sender ∧
    (s.evaluateMode).node = s.node ∧ (s.evaluateMode).counters = s.counters ∧ (s.evaluateMode).port = s.port := by
  simp only [State.evaluateMode]; (repeat' split) <;> simp

@[simp] theorem State.turnStage_frame (s : State) :
    (s.turnStage).pending = s.pending ∧ (s.turnStage).now = s.now ∧ (s.turnStage).inReset = s.inReset ∧
    (s.turnStage).haltLow = s.haltLow ∧ (s.turnStage).strobes = s.strobes ∧ (s.turnStage).cfg = s.cfg ∧
    (s.turnStage).store = s.store ∧ (s.turnStage).line = s.line ∧ (s.turnStage).fifo = s.fifo ∧
    (s.turnStage).peers = s.peers ∧ (s.turnStage).announce = s.announce ∧ (s.turnStage).sources = s.sources ∧
    (s.turnStage).players = s.players ∧ (s.turnStage).merge = s.merge ∧ (s.turnStage).monitor = s.monitor ∧
    (s.turnStage).tx = s.tx ∧ (s.turnStage).sender = s.sender ∧ (s.turnStage).node = s.node ∧
    (s.turnStage).counters = s.counters ∧ (s.turnStage).port = s.port := by
  simp only [State.turnStage]; (repeat' split) <;> simp

@[simp] theorem State.revote_frame (s : State) :
    (s.revote).pending = s.pending ∧ (s.revote).now = s.now ∧ (s.revote).inReset = s.inReset ∧
    (s.revote).haltLow = s.haltLow ∧ (s.revote).strobes = s.strobes ∧ (s.revote).cfg = s.cfg ∧
    (s.revote).store = s.store ∧ (s.revote).fifo = s.fifo ∧ (s.revote).peers = s.peers ∧
    (s.revote).sources = s.sources ∧ (s.revote).players = s.players ∧ (s.revote).merge = s.merge ∧
    (s.revote).monitor = s.monitor ∧ (s.revote).node = s.node ∧ (s.revote).counters = s.counters ∧
    (s.revote).port = s.port := by
  simp only [State.revote]; (repeat' split) <;> simp

@[simp] theorem State.stepFactor_frame (s : State) :
    (s.stepFactor).pending = s.pending ∧ (s.stepFactor).now = s.now ∧ (s.stepFactor).inReset = s.inReset ∧
    (s.stepFactor).haltLow = s.haltLow ∧ (s.stepFactor).strobes = s.strobes ∧ (s.stepFactor).cfg = s.cfg ∧
    (s.stepFactor).store = s.store ∧ (s.stepFactor).line = s.line ∧ (s.stepFactor).fifo = s.fifo ∧
    (s.stepFactor).peers = s.peers ∧ (s.stepFactor).announce = s.announce ∧ (s.stepFactor).sources = s.sources ∧
    (s.stepFactor).merge = s.merge ∧ (s.stepFactor).monitor = s.monitor ∧ (s.stepFactor).tx = s.tx ∧
    (s.stepFactor).sender = s.sender ∧ (s.stepFactor).node = s.node ∧ (s.stepFactor).counters = s.counters ∧
    (s.stepFactor).port = s.port := by
  simp only [State.stepFactor]; (repeat' split) <;> simp

@[simp] theorem State.parkNow_frame (s : State) :
    (s.parkNow).pending = s.pending ∧ (s.parkNow).now = s.now ∧ (s.parkNow).inReset = s.inReset ∧
    (s.parkNow).haltLow = s.haltLow ∧ (s.parkNow).strobes = s.strobes ∧ (s.parkNow).cfg = s.cfg ∧
    (s.parkNow).store = s.store ∧ (s.parkNow).line = s.line ∧ (s.parkNow).fifo = s.fifo ∧
    (s.parkNow).peers = s.peers ∧ (s.parkNow).announce = s.announce ∧ (s.parkNow).sources = s.sources ∧
    (s.parkNow).players = s.players ∧ (s.parkNow).merge = s.merge ∧ (s.parkNow).monitor = s.monitor ∧
    (s.parkNow).tx = s.tx ∧ (s.parkNow).sender = s.sender ∧ (s.parkNow).node = s.node ∧
    (s.parkNow).counters = s.counters ∧ (s.parkNow).port = s.port := by
  simp only [State.parkNow]; (repeat' split) <;> simp

@[simp] theorem State.cutDrive_frame (s : State) :
    (s.cutDrive).pending = s.pending ∧ (s.cutDrive).now = s.now ∧ (s.cutDrive).inReset = s.inReset ∧
    (s.cutDrive).haltLow = s.haltLow ∧ (s.cutDrive).strobes = s.strobes ∧ (s.cutDrive).cfg = s.cfg ∧
    (s.cutDrive).store = s.store ∧ (s.cutDrive).fifo = s.fifo ∧ (s.cutDrive).peers = s.peers ∧
    (s.cutDrive).announce = s.announce ∧ (s.cutDrive).sources = s.sources ∧ (s.cutDrive).players = s.players ∧
    (s.cutDrive).merge = s.merge ∧ (s.cutDrive).output = s.output ∧ (s.cutDrive).monitor = s.monitor ∧
    (s.cutDrive).tx = s.tx ∧ (s.cutDrive).sender = s.sender ∧ (s.cutDrive).node = s.node ∧
    (s.cutDrive).counters = s.counters ∧ (s.cutDrive).port = s.port ∧ (s.cutDrive).events = s.events := by
  simp only [State.cutDrive]; (repeat' split) <;> simp

@[simp] theorem State.enterFault_frame (s : State) :
    (s.enterFault).pending = s.pending ∧ (s.enterFault).now = s.now ∧ (s.enterFault).inReset = s.inReset ∧
    (s.enterFault).haltLow = s.haltLow ∧ (s.enterFault).strobes = s.strobes ∧ (s.enterFault).cfg = s.cfg ∧
    (s.enterFault).store = s.store ∧ (s.enterFault).fifo = s.fifo ∧ (s.enterFault).peers = s.peers ∧
    (s.enterFault).sources = s.sources ∧ (s.enterFault).players = s.players ∧ (s.enterFault).merge = s.merge ∧
    (s.enterFault).monitor = s.monitor ∧ (s.enterFault).counters = s.counters := by
  simp only [State.enterFault]; (repeat' split) <;> simp

@[simp] theorem State.completeLeave_frame (s : State) :
    (s.completeLeave).pending = s.pending ∧ (s.completeLeave).now = s.now ∧ (s.completeLeave).inReset = s.inReset ∧
    (s.completeLeave).haltLow = s.haltLow ∧ (s.completeLeave).strobes = s.strobes ∧ (s.completeLeave).cfg = s.cfg ∧
    (s.completeLeave).store = s.store ∧ (s.completeLeave).counters = s.counters := by
  simp only [State.completeLeave]; (repeat' split) <;> simp

@[simp] theorem State.offerBurst_frame (s : State) (e : FifoEntry) :
    (s.offerBurst e).pending = s.pending ∧ (s.offerBurst e).now = s.now ∧ (s.offerBurst e).inReset = s.inReset ∧
    (s.offerBurst e).haltLow = s.haltLow ∧ (s.offerBurst e).strobes = s.strobes ∧ (s.offerBurst e).cfg = s.cfg ∧
    (s.offerBurst e).store = s.store ∧ (s.offerBurst e).line = s.line ∧ (s.offerBurst e).peers = s.peers ∧
    (s.offerBurst e).announce = s.announce ∧ (s.offerBurst e).sources = s.sources ∧
    (s.offerBurst e).players = s.players ∧ (s.offerBurst e).merge = s.merge ∧ (s.offerBurst e).output = s.output ∧
    (s.offerBurst e).monitor = s.monitor ∧ (s.offerBurst e).tx = s.tx ∧ (s.offerBurst e).sender = s.sender ∧
    (s.offerBurst e).node = s.node ∧ (s.offerBurst e).port = s.port := by
  simp only [State.offerBurst]; (repeat' split) <;> simp

@[simp] theorem State.takeRun_frame (s : State) (b : Run) :
    (s.takeRun b).pending = s.pending ∧ (s.takeRun b).now = s.now ∧ (s.takeRun b).inReset = s.inReset ∧
    (s.takeRun b).haltLow = s.haltLow ∧ (s.takeRun b).strobes = s.strobes ∧ (s.takeRun b).cfg = s.cfg ∧
    (s.takeRun b).store = s.store ∧ (s.takeRun b).line = s.line ∧ (s.takeRun b).peers = s.peers ∧
    (s.takeRun b).announce = s.announce ∧ (s.takeRun b).sources = s.sources ∧ (s.takeRun b).players = s.players ∧
    (s.takeRun b).merge = s.merge ∧ (s.takeRun b).output = s.output ∧ (s.takeRun b).monitor = s.monitor ∧
    (s.takeRun b).tx = s.tx ∧ (s.takeRun b).sender = s.sender ∧ (s.takeRun b).node = s.node ∧
    (s.takeRun b).port = s.port := by
  simp only [State.takeRun]; (repeat' split) <;> simp

@[simp] theorem State.settleReturn_frame (s : State) (b : Burst) :
    (s.settleReturn b).pending = s.pending ∧ (s.settleReturn b).now = s.now ∧
    (s.settleReturn b).inReset = s.inReset ∧ (s.settleReturn b).haltLow = s.haltLow ∧
    (s.settleReturn b).strobes = s.strobes ∧ (s.settleReturn b).cfg = s.cfg ∧ (s.settleReturn b).store = s.store ∧
    (s.settleReturn b).line = s.line ∧ (s.settleReturn b).fifo = s.fifo ∧ (s.settleReturn b).announce = s.announce ∧
    (s.settleReturn b).sources = s.sources ∧ (s.settleReturn b).players = s.players ∧
    (s.settleReturn b).merge = s.merge ∧ (s.settleReturn b).output = s.output ∧
    (s.settleReturn b).monitor = s.monitor ∧ (s.settleReturn b).tx = s.tx ∧ (s.settleReturn b).sender = s.sender ∧
    (s.settleReturn b).node = s.node ∧ (s.settleReturn b).counters = s.counters ∧ (s.settleReturn b).port = s.port := by
  simp only [State.settleReturn]; (repeat' split) <;> simp

@[simp] theorem State.headerSteps_frame (s : State) (b : Burst) :
    (s.headerSteps b).pending = s.pending ∧ (s.headerSteps b).now = s.now ∧ (s.headerSteps b).inReset = s.inReset ∧
    (s.headerSteps b).haltLow = s.haltLow ∧ (s.headerSteps b).strobes = s.strobes ∧ (s.headerSteps b).cfg = s.cfg ∧
    (s.headerSteps b).store = s.store ∧ (s.headerSteps b).line = s.line ∧ (s.headerSteps b).fifo = s.fifo ∧
    (s.headerSteps b).announce = s.announce ∧ (s.headerSteps b).sources = s.sources ∧
    (s.headerSteps b).players = s.players ∧ (s.headerSteps b).merge = s.merge ∧ (s.headerSteps b).output = s.output ∧
    (s.headerSteps b).monitor = s.monitor ∧ (s.headerSteps b).tx = s.tx ∧ (s.headerSteps b).sender = s.sender ∧
    (s.headerSteps b).node = s.node ∧ (s.headerSteps b).counters = s.counters ∧ (s.headerSteps b).port = s.port := by
  simp only [State.headerSteps]; (repeat' split) <;> simp

@[simp] theorem State.reportConflicts_frame (s : State) (x : Nat) (l : List Declaration) :
    (s.reportConflicts x l).pending = s.pending ∧ (s.reportConflicts x l).now = s.now ∧
    (s.reportConflicts x l).inReset = s.inReset ∧ (s.reportConflicts x l).haltLow = s.haltLow ∧
    (s.reportConflicts x l).strobes = s.strobes ∧ (s.reportConflicts x l).cfg = s.cfg ∧
    (s.reportConflicts x l).store = s.store ∧ (s.reportConflicts x l).line = s.line ∧
    (s.reportConflicts x l).fifo = s.fifo ∧ (s.reportConflicts x l).peers = s.peers ∧
    (s.reportConflicts x l).announce = s.announce ∧ (s.reportConflicts x l).sources = s.sources ∧
    (s.reportConflicts x l).players = s.players ∧ (s.reportConflicts x l).merge = s.merge ∧
    (s.reportConflicts x l).output = s.output ∧ (s.reportConflicts x l).monitor = s.monitor ∧
    (s.reportConflicts x l).tx = s.tx ∧ (s.reportConflicts x l).sender = s.sender ∧
    (s.reportConflicts x l).node = s.node ∧ (s.reportConflicts x l).counters = s.counters ∧
    (s.reportConflicts x l).port = s.port := by
  obtain ⟨e, h⟩ := foldl_events (fun s (h : Nat × Declaration) => s.report .rankConflict (some x) (some h.1)
    (some h.2.1) none (some h.2.2)) (fun s h => ⟨_, rfl⟩) _ s
  simp only [State.reportConflicts]; rw [h]; simp

@[simp] theorem State.completeGroup_frame (s : State) (x : Nat) (a : Assembly) :
    (s.completeGroup x a).pending = s.pending ∧ (s.completeGroup x a).now = s.now ∧
    (s.completeGroup x a).inReset = s.inReset ∧ (s.completeGroup x a).haltLow = s.haltLow ∧
    (s.completeGroup x a).strobes = s.strobes ∧ (s.completeGroup x a).cfg = s.cfg ∧
    (s.completeGroup x a).store = s.store ∧ (s.completeGroup x a).fifo = s.fifo ∧
    (s.completeGroup x a).players = s.players ∧ (s.completeGroup x a).merge = s.merge ∧
    (s.completeGroup x a).output = s.output ∧ (s.completeGroup x a).monitor = s.monitor ∧
    (s.completeGroup x a).sender = s.sender ∧ (s.completeGroup x a).node = s.node ∧
    (s.completeGroup x a).counters = s.counters ∧ (s.completeGroup x a).port = s.port := by
  simp only [State.completeGroup]; (repeat' split) <;> simp

@[simp] theorem State.takeAssembly_frame (s : State) (x : Nat) (a : Assembly) :
    (s.takeAssembly x a).pending = s.pending ∧ (s.takeAssembly x a).now = s.now ∧
    (s.takeAssembly x a).inReset = s.inReset ∧ (s.takeAssembly x a).haltLow = s.haltLow ∧
    (s.takeAssembly x a).strobes = s.strobes ∧ (s.takeAssembly x a).cfg = s.cfg ∧
    (s.takeAssembly x a).store = s.store ∧ (s.takeAssembly x a).fifo = s.fifo ∧
    (s.takeAssembly x a).players = s.players ∧ (s.takeAssembly x a).merge = s.merge ∧
    (s.takeAssembly x a).output = s.output ∧ (s.takeAssembly x a).monitor = s.monitor ∧
    (s.takeAssembly x a).sender = s.sender ∧ (s.takeAssembly x a).node = s.node ∧
    (s.takeAssembly x a).counters = s.counters ∧ (s.takeAssembly x a).port = s.port := by
  simp only [State.takeAssembly]; (repeat' split) <;> simp

@[simp] theorem State.dropPage_frame (s : State) (x : Nat) :
    (s.dropPage x).pending = s.pending ∧ (s.dropPage x).now = s.now ∧ (s.dropPage x).inReset = s.inReset ∧
    (s.dropPage x).haltLow = s.haltLow ∧ (s.dropPage x).strobes = s.strobes ∧ (s.dropPage x).cfg = s.cfg ∧
    (s.dropPage x).store = s.store ∧ (s.dropPage x).line = s.line ∧ (s.dropPage x).fifo = s.fifo ∧
    (s.dropPage x).announce = s.announce ∧ (s.dropPage x).sources = s.sources ∧ (s.dropPage x).players = s.players ∧
    (s.dropPage x).merge = s.merge ∧ (s.dropPage x).output = s.output ∧ (s.dropPage x).monitor = s.monitor ∧
    (s.dropPage x).tx = s.tx ∧ (s.dropPage x).sender = s.sender ∧ (s.dropPage x).node = s.node ∧
    (s.dropPage x).port = s.port := by
  simp only [State.dropPage]; (repeat' split) <;> simp

@[simp] theorem State.applyPage_frame (s : State) (x i c : Nat) (l : List Declaration) :
    (s.applyPage x i c l).pending = s.pending ∧ (s.applyPage x i c l).now = s.now ∧
    (s.applyPage x i c l).inReset = s.inReset ∧ (s.applyPage x i c l).haltLow = s.haltLow ∧
    (s.applyPage x i c l).strobes = s.strobes ∧ (s.applyPage x i c l).cfg = s.cfg ∧
    (s.applyPage x i c l).store = s.store ∧ (s.applyPage x i c l).fifo = s.fifo ∧
    (s.applyPage x i c l).players = s.players ∧ (s.applyPage x i c l).merge = s.merge ∧
    (s.applyPage x i c l).output = s.output ∧ (s.applyPage x i c l).monitor = s.monitor ∧
    (s.applyPage x i c l).sender = s.sender ∧ (s.applyPage x i c l).node = s.node ∧
    (s.applyPage x i c l).port = s.port := by
  simp only [State.applyPage]; (repeat' split) <;> simp

@[simp] theorem State.discardDeclared_frame (s : State) (x : Nat) :
    (s.discardDeclared x).pending = s.pending ∧ (s.discardDeclared x).now = s.now ∧
    (s.discardDeclared x).inReset = s.inReset ∧ (s.discardDeclared x).haltLow = s.haltLow ∧
    (s.discardDeclared x).strobes = s.strobes ∧ (s.discardDeclared x).cfg = s.cfg ∧
    (s.discardDeclared x).store = s.store ∧ (s.discardDeclared x).line = s.line ∧
    (s.discardDeclared x).fifo = s.fifo ∧ (s.discardDeclared x).peers = s.peers ∧
    (s.discardDeclared x).announce = s.announce ∧ (s.discardDeclared x).merge = s.merge ∧
    (s.discardDeclared x).output = s.output ∧ (s.discardDeclared x).monitor = s.monitor ∧
    (s.discardDeclared x).tx = s.tx ∧ (s.discardDeclared x).sender = s.sender ∧ (s.discardDeclared x).node = s.node ∧
    (s.discardDeclared x).counters = s.counters ∧ (s.discardDeclared x).port = s.port ∧
    (s.discardDeclared x).events = s.events := by
  simp only [State.discardDeclared]; (repeat' split) <;> simp

@[simp] theorem State.applyBye_frame (s : State) (x : Nat) :
    (s.applyBye x).pending = s.pending ∧ (s.applyBye x).now = s.now ∧ (s.applyBye x).inReset = s.inReset ∧
    (s.applyBye x).haltLow = s.haltLow ∧ (s.applyBye x).strobes = s.strobes ∧ (s.applyBye x).cfg = s.cfg ∧
    (s.applyBye x).store = s.store ∧ (s.applyBye x).line = s.line ∧ (s.applyBye x).fifo = s.fifo ∧
    (s.applyBye x).announce = s.announce ∧ (s.applyBye x).merge = s.merge ∧ (s.applyBye x).output = s.output ∧
    (s.applyBye x).monitor = s.monitor ∧ (s.applyBye x).tx = s.tx ∧ (s.applyBye x).sender = s.sender ∧
    (s.applyBye x).node = s.node ∧ (s.applyBye x).counters = s.counters ∧ (s.applyBye x).port = s.port := by
  simp only [State.applyBye]; (repeat' split) <;> simp

@[simp] theorem State.applyUnannounced_frame (s : State) (x : Nat) :
    (s.applyUnannounced x).pending = s.pending ∧ (s.applyUnannounced x).now = s.now ∧
    (s.applyUnannounced x).inReset = s.inReset ∧ (s.applyUnannounced x).haltLow = s.haltLow ∧
    (s.applyUnannounced x).strobes = s.strobes ∧ (s.applyUnannounced x).cfg = s.cfg ∧
    (s.applyUnannounced x).store = s.store ∧ (s.applyUnannounced x).fifo = s.fifo ∧
    (s.applyUnannounced x).sources = s.sources ∧ (s.applyUnannounced x).players = s.players ∧
    (s.applyUnannounced x).merge = s.merge ∧ (s.applyUnannounced x).output = s.output ∧
    (s.applyUnannounced x).monitor = s.monitor ∧ (s.applyUnannounced x).sender = s.sender ∧
    (s.applyUnannounced x).node = s.node ∧ (s.applyUnannounced x).counters = s.counters ∧
    (s.applyUnannounced x).port = s.port ∧ (s.applyUnannounced x).events = s.events := by
  simp only [State.applyUnannounced]; (repeat' split) <;> simp

@[simp] theorem State.applyOwnLevel_frame (s : State) (m : Mode) (l : List (Nat × Int)) :
    (s.applyOwnLevel m l).pending = s.pending ∧ (s.applyOwnLevel m l).now = s.now ∧
    (s.applyOwnLevel m l).inReset = s.inReset ∧ (s.applyOwnLevel m l).haltLow = s.haltLow ∧
    (s.applyOwnLevel m l).strobes = s.strobes ∧ (s.applyOwnLevel m l).cfg = s.cfg ∧
    (s.applyOwnLevel m l).store = s.store ∧ (s.applyOwnLevel m l).line = s.line ∧
    (s.applyOwnLevel m l).fifo = s.fifo ∧ (s.applyOwnLevel m l).peers = s.peers ∧
    (s.applyOwnLevel m l).announce = s.announce ∧ (s.applyOwnLevel m l).players = s.players ∧
    (s.applyOwnLevel m l).merge = s.merge ∧ (s.applyOwnLevel m l).output = s.output ∧
    (s.applyOwnLevel m l).monitor = s.monitor ∧ (s.applyOwnLevel m l).tx = s.tx ∧
    (s.applyOwnLevel m l).node = s.node ∧ (s.applyOwnLevel m l).counters = s.counters ∧
    (s.applyOwnLevel m l).port = s.port ∧ (s.applyOwnLevel m l).events = s.events :=
    ⟨rfl, rfl, rfl, rfl, rfl, rfl, rfl, rfl, rfl, rfl, rfl, rfl, rfl, rfl, rfl, rfl, rfl, rfl, rfl, rfl⟩

@[simp] theorem applyPairs_frame (x : Nat) (l : List (Nat × Int)) : ∀ s : State,
    (l.foldl (State.applyPair x) s).pending = s.pending ∧ (l.foldl (State.applyPair x) s).now = s.now ∧
    (l.foldl (State.applyPair x) s).inReset = s.inReset ∧ (l.foldl (State.applyPair x) s).haltLow = s.haltLow ∧
    (l.foldl (State.applyPair x) s).strobes = s.strobes ∧ (l.foldl (State.applyPair x) s).cfg = s.cfg ∧
    (l.foldl (State.applyPair x) s).store = s.store ∧ (l.foldl (State.applyPair x) s).line = s.line ∧
    (l.foldl (State.applyPair x) s).fifo = s.fifo ∧ (l.foldl (State.applyPair x) s).announce = s.announce ∧
    (l.foldl (State.applyPair x) s).players = s.players ∧ (l.foldl (State.applyPair x) s).merge = s.merge ∧
    (l.foldl (State.applyPair x) s).output = s.output ∧ (l.foldl (State.applyPair x) s).monitor = s.monitor ∧
    (l.foldl (State.applyPair x) s).tx = s.tx ∧ (l.foldl (State.applyPair x) s).sender = s.sender ∧
    (l.foldl (State.applyPair x) s).node = s.node ∧ (l.foldl (State.applyPair x) s).counters = s.counters ∧
    (l.foldl (State.applyPair x) s).port = s.port ∧ (l.foldl (State.applyPair x) s).events = s.events := by
  induction l with
  | nil => simp
  | cons p l ih =>
    intro s; simp only [List.foldl_cons, ih]; simp only [State.applyPair]; split <;> simp

@[simp] theorem applyStart_frame (x t c e p a q l : Nat) (s : State) :
    (applyStart x t c e p a q l s).pending = s.pending ∧ (applyStart x t c e p a q l s).now = s.now ∧
    (applyStart x t c e p a q l s).inReset = s.inReset ∧ (applyStart x t c e p a q l s).haltLow = s.haltLow ∧
    (applyStart x t c e p a q l s).strobes = s.strobes ∧ (applyStart x t c e p a q l s).cfg = s.cfg ∧
    (applyStart x t c e p a q l s).store = s.store ∧ (applyStart x t c e p a q l s).line = s.line ∧
    (applyStart x t c e p a q l s).fifo = s.fifo ∧ (applyStart x t c e p a q l s).peers = s.peers ∧
    (applyStart x t c e p a q l s).announce = s.announce ∧ (applyStart x t c e p a q l s).sources = s.sources ∧
    (applyStart x t c e p a q l s).merge = s.merge ∧ (applyStart x t c e p a q l s).output = s.output ∧
    (applyStart x t c e p a q l s).monitor = s.monitor ∧ (applyStart x t c e p a q l s).tx = s.tx ∧
    (applyStart x t c e p a q l s).sender = s.sender ∧ (applyStart x t c e p a q l s).node = s.node ∧
    (applyStart x t c e p a q l s).counters = s.counters ∧ (applyStart x t c e p a q l s).port = s.port := by
  simp only [applyStart]; (repeat' split) <;> simp

@[simp] theorem applyCancel_frame (x e : Nat) (s : State) :
    (applyCancel x e s).pending = s.pending ∧ (applyCancel x e s).now = s.now ∧
    (applyCancel x e s).inReset = s.inReset ∧ (applyCancel x e s).haltLow = s.haltLow ∧
    (applyCancel x e s).strobes = s.strobes ∧ (applyCancel x e s).cfg = s.cfg ∧ (applyCancel x e s).store = s.store ∧
    (applyCancel x e s).line = s.line ∧ (applyCancel x e s).fifo = s.fifo ∧ (applyCancel x e s).peers = s.peers ∧
    (applyCancel x e s).announce = s.announce ∧ (applyCancel x e s).sources = s.sources ∧
    (applyCancel x e s).merge = s.merge ∧ (applyCancel x e s).output = s.output ∧
    (applyCancel x e s).monitor = s.monitor ∧ (applyCancel x e s).tx = s.tx ∧ (applyCancel x e s).sender = s.sender ∧
    (applyCancel x e s).node = s.node ∧ (applyCancel x e s).counters = s.counters ∧
    (applyCancel x e s).port = s.port ∧ (applyCancel x e s).events = s.events := by
  simp [applyCancel]

@[simp] theorem applyItems_frame (x t : Nat) (l : List TriggerItem) : ∀ s : State,
    (applyItems x t l s).pending = s.pending ∧ (applyItems x t l s).now = s.now ∧
    (applyItems x t l s).inReset = s.inReset ∧ (applyItems x t l s).haltLow = s.haltLow ∧
    (applyItems x t l s).strobes = s.strobes ∧ (applyItems x t l s).cfg = s.cfg ∧
    (applyItems x t l s).store = s.store ∧ (applyItems x t l s).line = s.line ∧ (applyItems x t l s).fifo = s.fifo ∧
    (applyItems x t l s).peers = s.peers ∧ (applyItems x t l s).announce = s.announce ∧
    (applyItems x t l s).sources = s.sources ∧ (applyItems x t l s).merge = s.merge ∧
    (applyItems x t l s).output = s.output ∧ (applyItems x t l s).monitor = s.monitor ∧
    (applyItems x t l s).tx = s.tx ∧ (applyItems x t l s).sender = s.sender ∧ (applyItems x t l s).node = s.node ∧
    (applyItems x t l s).counters = s.counters ∧ (applyItems x t l s).port = s.port := by
  induction l with
  | nil => simp [applyItems]
  | cons i l ih =>
    intro s; simp only [applyItems, List.foldl_cons] at ih ⊢; simp only [ih]; cases i <;> simp [applyItem]

@[simp] theorem dropItems_frame (x : Nat) (l : List TriggerItem) : ∀ s : State,
    (dropItems x l s).pending = s.pending ∧ (dropItems x l s).now = s.now ∧ (dropItems x l s).inReset = s.inReset ∧
    (dropItems x l s).haltLow = s.haltLow ∧ (dropItems x l s).strobes = s.strobes ∧ (dropItems x l s).cfg = s.cfg ∧
    (dropItems x l s).store = s.store ∧ (dropItems x l s).line = s.line ∧ (dropItems x l s).fifo = s.fifo ∧
    (dropItems x l s).peers = s.peers ∧ (dropItems x l s).announce = s.announce ∧
    (dropItems x l s).sources = s.sources ∧ (dropItems x l s).players = s.players ∧
    (dropItems x l s).merge = s.merge ∧ (dropItems x l s).output = s.output ∧ (dropItems x l s).monitor = s.monitor ∧
    (dropItems x l s).tx = s.tx ∧ (dropItems x l s).sender = s.sender ∧ (dropItems x l s).node = s.node ∧
    (dropItems x l s).counters = s.counters ∧ (dropItems x l s).port = s.port := by
  induction l with
  | nil => simp [dropItems]
  | cons i l ih =>
    intro s; simp only [dropItems, List.foldl_cons] at ih ⊢; simp only [ih]; cases i <;> simp

@[simp] theorem State.applyOwn_frame (s : State) (e : FifoEntry) :
    (s.applyOwn e).pending = s.pending ∧ (s.applyOwn e).now = s.now ∧ (s.applyOwn e).inReset = s.inReset ∧
    (s.applyOwn e).haltLow = s.haltLow ∧ (s.applyOwn e).strobes = s.strobes ∧ (s.applyOwn e).cfg = s.cfg ∧
    (s.applyOwn e).store = s.store ∧ (s.applyOwn e).line = s.line ∧ (s.applyOwn e).fifo = s.fifo ∧
    (s.applyOwn e).peers = s.peers ∧ (s.applyOwn e).announce = s.announce ∧ (s.applyOwn e).merge = s.merge ∧
    (s.applyOwn e).output = s.output ∧ (s.applyOwn e).monitor = s.monitor ∧ (s.applyOwn e).tx = s.tx ∧
    (s.applyOwn e).node = s.node ∧ (s.applyOwn e).counters = s.counters ∧ (s.applyOwn e).port = s.port := by
  simp only [State.applyOwn]; (repeat' split) <;> simp

@[simp] theorem State.applyContents_frame (s : State) (e : FifoEntry) :
    (s.applyContents e).pending = s.pending ∧ (s.applyContents e).now = s.now ∧
    (s.applyContents e).inReset = s.inReset ∧ (s.applyContents e).haltLow = s.haltLow ∧
    (s.applyContents e).strobes = s.strobes ∧ (s.applyContents e).cfg = s.cfg ∧ (s.applyContents e).store = s.store ∧
    (s.applyContents e).fifo = s.fifo ∧ (s.applyContents e).merge = s.merge ∧ (s.applyContents e).output = s.output ∧
    (s.applyContents e).monitor = s.monitor ∧ (s.applyContents e).sender = s.sender ∧
    (s.applyContents e).node = s.node ∧ (s.applyContents e).port = s.port := by
  simp only [State.applyContents]; (repeat' split) <;> simp

@[simp] theorem State.applyDuplicate_frame (s : State) (b : Burst) :
    (s.applyDuplicate b).pending = s.pending ∧ (s.applyDuplicate b).now = s.now ∧
    (s.applyDuplicate b).inReset = s.inReset ∧ (s.applyDuplicate b).haltLow = s.haltLow ∧
    (s.applyDuplicate b).strobes = s.strobes ∧ (s.applyDuplicate b).cfg = s.cfg ∧
    (s.applyDuplicate b).store = s.store ∧ (s.applyDuplicate b).fifo = s.fifo ∧
    (s.applyDuplicate b).peers = s.peers ∧ (s.applyDuplicate b).sources = s.sources ∧
    (s.applyDuplicate b).players = s.players ∧ (s.applyDuplicate b).merge = s.merge ∧
    (s.applyDuplicate b).monitor = s.monitor ∧ (s.applyDuplicate b).counters = s.counters := by
  simp only [State.applyDuplicate]; (repeat' split) <;> simp

@[simp] theorem State.applyEntry_frame (s : State) (e : FifoEntry) :
    (s.applyEntry e).pending = s.pending ∧ (s.applyEntry e).now = s.now ∧ (s.applyEntry e).inReset = s.inReset ∧
    (s.applyEntry e).haltLow = s.haltLow ∧ (s.applyEntry e).strobes = s.strobes ∧ (s.applyEntry e).cfg = s.cfg ∧
    (s.applyEntry e).store = s.store ∧ (s.applyEntry e).fifo = s.fifo ∧ (s.applyEntry e).merge = s.merge ∧
    (s.applyEntry e).monitor = s.monitor := by
  simp only [State.applyEntry]; (repeat' split) <;> simp

@[simp] theorem State.applyOldest_frame (s : State) :
    (s.applyOldest).pending = s.pending ∧ (s.applyOldest).now = s.now ∧ (s.applyOldest).inReset = s.inReset ∧
    (s.applyOldest).haltLow = s.haltLow ∧ (s.applyOldest).strobes = s.strobes ∧ (s.applyOldest).cfg = s.cfg ∧
    (s.applyOldest).store = s.store ∧ (s.applyOldest).merge = s.merge ∧ (s.applyOldest).monitor = s.monitor := by
  simp only [State.applyOldest]; (repeat' split) <;> simp

@[simp] theorem State.losePeer_frame (s : State) (x : Nat) :
    (s.losePeer x).pending = s.pending ∧ (s.losePeer x).inReset = s.inReset ∧ (s.losePeer x).haltLow = s.haltLow ∧
    (s.losePeer x).strobes = s.strobes ∧ (s.losePeer x).cfg = s.cfg ∧ (s.losePeer x).store = s.store ∧
    (s.losePeer x).fifo = s.fifo ∧ (s.losePeer x).merge = s.merge ∧ (s.losePeer x).monitor = s.monitor ∧
    (s.losePeer x).node = s.node ∧ (s.losePeer x).counters = s.counters ∧ (s.losePeer x).port = s.port := by
  simp only [State.losePeer]; (repeat' split) <;> simp

@[simp] theorem State.forgetPeer_frame (s : State) (x : Nat) :
    (s.forgetPeer x).pending = s.pending ∧ (s.forgetPeer x).inReset = s.inReset ∧
    (s.forgetPeer x).haltLow = s.haltLow ∧ (s.forgetPeer x).strobes = s.strobes ∧ (s.forgetPeer x).cfg = s.cfg ∧
    (s.forgetPeer x).store = s.store ∧ (s.forgetPeer x).fifo = s.fifo ∧ (s.forgetPeer x).merge = s.merge ∧
    (s.forgetPeer x).monitor = s.monitor ∧ (s.forgetPeer x).node = s.node ∧ (s.forgetPeer x).counters = s.counters ∧
    (s.forgetPeer x).port = s.port := by
  simp only [State.forgetPeer]; (repeat' split) <;> simp

@[simp] theorem State.createOwnEntries_frame (s : State) :
    (s.createOwnEntries).pending = s.pending ∧ (s.createOwnEntries).now = s.now ∧
    (s.createOwnEntries).inReset = s.inReset ∧ (s.createOwnEntries).haltLow = s.haltLow ∧
    (s.createOwnEntries).strobes = s.strobes ∧ (s.createOwnEntries).cfg = s.cfg ∧
    (s.createOwnEntries).store = s.store ∧ (s.createOwnEntries).line = s.line ∧ (s.createOwnEntries).fifo = s.fifo ∧
    (s.createOwnEntries).peers = s.peers ∧ (s.createOwnEntries).announce = s.announce ∧
    (s.createOwnEntries).players = s.players ∧ (s.createOwnEntries).merge = s.merge ∧
    (s.createOwnEntries).output = s.output ∧ (s.createOwnEntries).monitor = s.monitor ∧
    (s.createOwnEntries).tx = s.tx ∧ (s.createOwnEntries).sender = s.sender ∧ (s.createOwnEntries).node = s.node ∧
    (s.createOwnEntries).counters = s.counters ∧ (s.createOwnEntries).port = s.port ∧
    (s.createOwnEntries).events = s.events :=
    ⟨rfl, rfl, rfl, rfl, rfl, rfl, rfl, rfl, rfl, rfl, rfl, rfl, rfl, rfl, rfl, rfl, rfl, rfl, rfl, rfl, rfl⟩

@[simp] theorem State.joinSources_frame (s : State) :
    (s.joinSources).pending = s.pending ∧ (s.joinSources).now = s.now ∧ (s.joinSources).inReset = s.inReset ∧
    (s.joinSources).haltLow = s.haltLow ∧ (s.joinSources).strobes = s.strobes ∧ (s.joinSources).cfg = s.cfg ∧
    (s.joinSources).store = s.store ∧ (s.joinSources).line = s.line ∧ (s.joinSources).fifo = s.fifo ∧
    (s.joinSources).peers = s.peers ∧ (s.joinSources).announce = s.announce ∧ (s.joinSources).players = s.players ∧
    (s.joinSources).output = s.output ∧ (s.joinSources).monitor = s.monitor ∧ (s.joinSources).tx = s.tx ∧
    (s.joinSources).sender = s.sender ∧ (s.joinSources).node = s.node ∧ (s.joinSources).counters = s.counters ∧
    (s.joinSources).port = s.port ∧ (s.joinSources).events = s.events ∧ (s.joinSources).merge.pass = s.merge.pass := by
  simp only [State.joinSources, State.orHold]; split <;> simp

@[simp] theorem State.makeHeld_frame (s : State) (h : HeldChange) :
    (s.makeHeld h).pending = s.pending ∧ (s.makeHeld h).inReset = s.inReset ∧ (s.makeHeld h).haltLow = s.haltLow ∧
    (s.makeHeld h).strobes = s.strobes ∧ (s.makeHeld h).cfg = s.cfg ∧ (s.makeHeld h).store = s.store := by
  simp only [State.makeHeld]; (repeat' split) <;> simp

@[simp] theorem foldHeld_frame (l : List HeldChange) : ∀ s : State,
    (l.foldl State.makeHeld s).pending = s.pending ∧ (l.foldl State.makeHeld s).inReset = s.inReset ∧
    (l.foldl State.makeHeld s).haltLow = s.haltLow ∧ (l.foldl State.makeHeld s).strobes = s.strobes ∧
    (l.foldl State.makeHeld s).cfg = s.cfg ∧ (l.foldl State.makeHeld s).store = s.store := by
  induction l with
  | nil => simp
  | cons p l ih => intro s; simp [ih]

@[simp] theorem State.reportAxes_frame (s : State) (k : EventKind) (v : List Int) (w : List Nat) :
    (s.reportAxes k v w).pending = s.pending ∧ (s.reportAxes k v w).now = s.now ∧
    (s.reportAxes k v w).inReset = s.inReset ∧ (s.reportAxes k v w).haltLow = s.haltLow ∧
    (s.reportAxes k v w).strobes = s.strobes ∧ (s.reportAxes k v w).cfg = s.cfg ∧
    (s.reportAxes k v w).store = s.store ∧ (s.reportAxes k v w).line = s.line ∧ (s.reportAxes k v w).fifo = s.fifo ∧
    (s.reportAxes k v w).peers = s.peers ∧ (s.reportAxes k v w).announce = s.announce ∧
    (s.reportAxes k v w).sources = s.sources ∧ (s.reportAxes k v w).players = s.players ∧
    (s.reportAxes k v w).merge = s.merge ∧ (s.reportAxes k v w).output = s.output ∧
    (s.reportAxes k v w).monitor = s.monitor ∧ (s.reportAxes k v w).tx = s.tx ∧
    (s.reportAxes k v w).sender = s.sender ∧ (s.reportAxes k v w).node = s.node ∧
    (s.reportAxes k v w).counters = s.counters ∧ (s.reportAxes k v w).port = s.port := by
  obtain ⟨e, h⟩ := foldl_events (fun s a => s.report k none none (some a) none (some (v.getD a 0)))
    (fun s h => ⟨_, rfl⟩) w s
  simp only [State.reportAxes]; rw [h]; simp

@[simp] theorem State.setTrip_frame (s : State) :
    (s.setTrip).pending = s.pending ∧ (s.setTrip).now = s.now ∧ (s.setTrip).inReset = s.inReset ∧
    (s.setTrip).haltLow = s.haltLow ∧ (s.setTrip).strobes = s.strobes ∧ (s.setTrip).cfg = s.cfg ∧
    (s.setTrip).store = s.store ∧ (s.setTrip).fifo = s.fifo ∧ (s.setTrip).peers = s.peers ∧
    (s.setTrip).sources = s.sources ∧ (s.setTrip).players = s.players ∧ (s.setTrip).merge = s.merge ∧
    (s.setTrip).node = s.node ∧ (s.setTrip).counters = s.counters ∧ (s.setTrip).port = s.port := by
  simp only [State.setTrip]; (repeat' split) <;> simp

@[simp] theorem State.monitorPass_frame (s : State) (p : Pass) :
    (s.monitorPass p).pending = s.pending ∧ (s.monitorPass p).now = s.now ∧ (s.monitorPass p).inReset = s.inReset ∧
    (s.monitorPass p).haltLow = s.haltLow ∧ (s.monitorPass p).strobes = s.strobes ∧ (s.monitorPass p).cfg = s.cfg ∧
    (s.monitorPass p).store = s.store ∧ (s.monitorPass p).fifo = s.fifo ∧ (s.monitorPass p).peers = s.peers ∧
    (s.monitorPass p).sources = s.sources ∧ (s.monitorPass p).players = s.players ∧
    (s.monitorPass p).merge = s.merge ∧ (s.monitorPass p).node = s.node ∧ (s.monitorPass p).counters = s.counters ∧
    (s.monitorPass p).port = s.port := by
  simp only [State.monitorPass]; (repeat' split) <;> simp

@[simp] theorem State.handOver_frame (s : State) (p : Pass) :
    (s.handOver p).pending = s.pending ∧ (s.handOver p).now = s.now ∧ (s.handOver p).inReset = s.inReset ∧
    (s.handOver p).haltLow = s.haltLow ∧ (s.handOver p).strobes = s.strobes ∧ (s.handOver p).cfg = s.cfg ∧
    (s.handOver p).store = s.store ∧ (s.handOver p).fifo = s.fifo ∧ (s.handOver p).peers = s.peers ∧
    (s.handOver p).sources = s.sources ∧ (s.handOver p).merge = s.merge ∧ (s.handOver p).node = s.node ∧
    (s.handOver p).counters = s.counters ∧ (s.handOver p).port = s.port := by
  simp only [State.handOver]; (repeat' split) <;> simp

@[simp] theorem State.countExpiry_frame (s : State) :
    (s.countExpiry).pending = s.pending ∧ (s.countExpiry).inReset = s.inReset ∧ (s.countExpiry).haltLow = s.haltLow ∧
    (s.countExpiry).strobes = s.strobes ∧ (s.countExpiry).cfg = s.cfg ∧ (s.countExpiry).store = s.store ∧
    (s.countExpiry).line = s.line ∧ (s.countExpiry).fifo = s.fifo ∧ (s.countExpiry).peers = s.peers ∧
    (s.countExpiry).announce = s.announce ∧ (s.countExpiry).sources = s.sources ∧
    (s.countExpiry).players = s.players ∧ (s.countExpiry).output = s.output ∧ (s.countExpiry).monitor = s.monitor ∧
    (s.countExpiry).tx = s.tx ∧ (s.countExpiry).node = s.node ∧ (s.countExpiry).counters = s.counters ∧
    (s.countExpiry).port = s.port ∧ (s.countExpiry).events = s.events :=
    ⟨rfl, rfl, rfl, rfl, rfl, rfl, rfl, rfl, rfl, rfl, rfl, rfl, rfl, rfl, rfl, rfl, rfl, rfl, rfl⟩

@[simp] theorem State.mergeChannels_frame (s : State) (t : Nat) :
    (s.mergeChannels t).pending = s.pending ∧ (s.mergeChannels t).now = s.now ∧
    (s.mergeChannels t).inReset = s.inReset ∧ (s.mergeChannels t).haltLow = s.haltLow ∧
    (s.mergeChannels t).strobes = s.strobes ∧ (s.mergeChannels t).cfg = s.cfg ∧ (s.mergeChannels t).store = s.store ∧
    (s.mergeChannels t).line = s.line ∧ (s.mergeChannels t).fifo = s.fifo ∧ (s.mergeChannels t).peers = s.peers ∧
    (s.mergeChannels t).announce = s.announce ∧ (s.mergeChannels t).output = s.output ∧
    (s.mergeChannels t).monitor = s.monitor ∧ (s.mergeChannels t).tx = s.tx ∧ (s.mergeChannels t).sender = s.sender ∧
    (s.mergeChannels t).node = s.node ∧ (s.mergeChannels t).counters = s.counters ∧
    (s.mergeChannels t).port = s.port ∧ (s.mergeChannels t).events = s.events :=
    ⟨rfl, rfl, rfl, rfl, rfl, rfl, rfl, rfl, rfl, rfl, rfl, rfl, rfl, rfl, rfl, rfl, rfl, rfl, rfl⟩

@[simp] theorem State.computeAxes_frame (s : State) (o : HandOverOrder) :
    (s.computeAxes o).pending = s.pending ∧ (s.computeAxes o).now = s.now ∧ (s.computeAxes o).inReset = s.inReset ∧
    (s.computeAxes o).haltLow = s.haltLow ∧ (s.computeAxes o).strobes = s.strobes ∧ (s.computeAxes o).cfg = s.cfg ∧
    (s.computeAxes o).store = s.store ∧ (s.computeAxes o).line = s.line ∧ (s.computeAxes o).fifo = s.fifo ∧
    (s.computeAxes o).peers = s.peers ∧ (s.computeAxes o).announce = s.announce ∧
    (s.computeAxes o).sources = s.sources ∧ (s.computeAxes o).players = s.players ∧
    (s.computeAxes o).output = s.output ∧ (s.computeAxes o).tx = s.tx ∧ (s.computeAxes o).sender = s.sender ∧
    (s.computeAxes o).node = s.node ∧ (s.computeAxes o).counters = s.counters ∧ (s.computeAxes o).port = s.port ∧
    (s.computeAxes o).events = s.events :=
    ⟨rfl, rfl, rfl, rfl, rfl, rfl, rfl, rfl, rfl, rfl, rfl, rfl, rfl, rfl, rfl, rfl, rfl, rfl, rfl, rfl⟩

@[simp] theorem State.beginPass_frame (s : State) (o : HandOverOrder) :
    (s.beginPass o).pending = s.pending ∧ (s.beginPass o).inReset = s.inReset ∧ (s.beginPass o).haltLow = s.haltLow ∧
    (s.beginPass o).strobes = s.strobes ∧ (s.beginPass o).cfg = s.cfg ∧ (s.beginPass o).store = s.store ∧
    (s.beginPass o).line = s.line ∧ (s.beginPass o).fifo = s.fifo ∧ (s.beginPass o).peers = s.peers ∧
    (s.beginPass o).announce = s.announce ∧ (s.beginPass o).output = s.output ∧ (s.beginPass o).tx = s.tx ∧
    (s.beginPass o).node = s.node ∧ (s.beginPass o).counters = s.counters ∧ (s.beginPass o).port = s.port ∧
    (s.beginPass o).events = s.events :=
    ⟨rfl, rfl, rfl, rfl, rfl, rfl, rfl, rfl, rfl, rfl, rfl, rfl, rfl, rfl, rfl, rfl⟩

@[simp] theorem State.finishPass_frame (s : State) :
    (s.finishPass).pending = s.pending ∧ (s.finishPass).inReset = s.inReset ∧ (s.finishPass).haltLow = s.haltLow ∧
    (s.finishPass).cfg = s.cfg ∧ (s.finishPass).store = s.store := by
  simp only [State.finishPass]; split
  · simp
  · have h := foldHeld_frame s.merge.held; simp only [h]; simp

@[simp] theorem State.resumeEngine_frame (s : State) :
    (s.resumeEngine).pending = s.pending ∧ (s.resumeEngine).now = s.now ∧ (s.resumeEngine).inReset = s.inReset ∧
    (s.resumeEngine).haltLow = s.haltLow ∧ (s.resumeEngine).strobes = s.strobes ∧ (s.resumeEngine).cfg = s.cfg ∧
    (s.resumeEngine).store = s.store ∧ (s.resumeEngine).fifo = s.fifo ∧ (s.resumeEngine).peers = s.peers ∧
    (s.resumeEngine).sources = s.sources ∧ (s.resumeEngine).players = s.players ∧ (s.resumeEngine).merge = s.merge ∧
    (s.resumeEngine).output = s.output ∧ (s.resumeEngine).monitor = s.monitor ∧ (s.resumeEngine).sender = s.sender ∧
    (s.resumeEngine).node = s.node ∧ (s.resumeEngine).counters = s.counters ∧ (s.resumeEngine).port = s.port ∧
    (s.resumeEngine).events = s.events := by
  simp only [State.resumeEngine]; (repeat' split) <;> simp

@[simp] theorem State.queueBye_frame (s : State) :
    (s.queueBye).pending = s.pending ∧ (s.queueBye).now = s.now ∧ (s.queueBye).inReset = s.inReset ∧
    (s.queueBye).haltLow = s.haltLow ∧ (s.queueBye).strobes = s.strobes ∧ (s.queueBye).cfg = s.cfg ∧
    (s.queueBye).store = s.store ∧ (s.queueBye).fifo = s.fifo ∧ (s.queueBye).peers = s.peers ∧
    (s.queueBye).sources = s.sources ∧ (s.queueBye).players = s.players ∧ (s.queueBye).merge = s.merge ∧
    (s.queueBye).output = s.output ∧ (s.queueBye).monitor = s.monitor ∧ (s.queueBye).sender = s.sender ∧
    (s.queueBye).node = s.node ∧ (s.queueBye).counters = s.counters ∧ (s.queueBye).port = s.port ∧
    (s.queueBye).events = s.events := by
  simp only [State.queueBye]; (repeat' split) <;> simp

@[simp] theorem State.startSender_frame (s : State) :
    (s.startSender).pending = s.pending ∧ (s.startSender).now = s.now ∧ (s.startSender).inReset = s.inReset ∧
    (s.startSender).haltLow = s.haltLow ∧ (s.startSender).strobes = s.strobes ∧ (s.startSender).cfg = s.cfg ∧
    (s.startSender).store = s.store ∧ (s.startSender).fifo = s.fifo ∧ (s.startSender).peers = s.peers ∧
    (s.startSender).sources = s.sources ∧ (s.startSender).players = s.players ∧ (s.startSender).merge = s.merge ∧
    (s.startSender).output = s.output ∧ (s.startSender).monitor = s.monitor ∧ (s.startSender).node = s.node ∧
    (s.startSender).counters = s.counters ∧ (s.startSender).port = s.port ∧ (s.startSender).events = s.events := by
  simp only [State.startSender]; (repeat' split) <;> simp

@[simp] theorem State.queueTrigger_frame (s : State) (x : TriggerItem) :
    (s.queueTrigger x).pending = s.pending ∧ (s.queueTrigger x).now = s.now ∧
    (s.queueTrigger x).inReset = s.inReset ∧ (s.queueTrigger x).haltLow = s.haltLow ∧
    (s.queueTrigger x).strobes = s.strobes ∧ (s.queueTrigger x).cfg = s.cfg ∧ (s.queueTrigger x).store = s.store ∧
    (s.queueTrigger x).fifo = s.fifo ∧ (s.queueTrigger x).peers = s.peers ∧ (s.queueTrigger x).sources = s.sources ∧
    (s.queueTrigger x).players = s.players ∧ (s.queueTrigger x).merge = s.merge ∧
    (s.queueTrigger x).output = s.output ∧ (s.queueTrigger x).monitor = s.monitor ∧
    (s.queueTrigger x).sender = s.sender ∧ (s.queueTrigger x).node = s.node ∧
    (s.queueTrigger x).counters = s.counters ∧ (s.queueTrigger x).events = s.events := by
  simp only [State.queueTrigger]; (repeat' split) <;> simp

@[simp] theorem State.checkLevel_frame (s : State) :
    (s.checkLevel).pending = s.pending ∧ (s.checkLevel).now = s.now ∧ (s.checkLevel).inReset = s.inReset ∧
    (s.checkLevel).haltLow = s.haltLow ∧ (s.checkLevel).strobes = s.strobes ∧ (s.checkLevel).cfg = s.cfg ∧
    (s.checkLevel).store = s.store ∧ (s.checkLevel).fifo = s.fifo ∧ (s.checkLevel).peers = s.peers ∧
    (s.checkLevel).sources = s.sources ∧ (s.checkLevel).players = s.players ∧ (s.checkLevel).merge = s.merge ∧
    (s.checkLevel).output = s.output ∧ (s.checkLevel).monitor = s.monitor ∧ (s.checkLevel).node = s.node ∧
    (s.checkLevel).counters = s.counters ∧ (s.checkLevel).port = s.port ∧ (s.checkLevel).events = s.events := by
  simp only [State.checkLevel]; (repeat' split) <;> simp

@[simp] theorem State.joinNow_frame (s : State) :
    (s.joinNow).pending = s.pending ∧ (s.joinNow).now = s.now ∧ (s.joinNow).inReset = s.inReset ∧
    (s.joinNow).haltLow = s.haltLow ∧ (s.joinNow).strobes = s.strobes ∧ (s.joinNow).cfg = s.cfg ∧
    (s.joinNow).store = s.store ∧ (s.joinNow).fifo = s.fifo ∧ (s.joinNow).players = s.players ∧
    (s.joinNow).merge.pass = s.merge.pass ∧ (s.joinNow).monitor = s.monitor ∧ (s.joinNow).counters = s.counters := by
  simp only [State.joinNow]; (repeat' split) <;> simp

@[simp] theorem State.leaveTalking_frame (s : State) :
    (s.leaveTalking).pending = s.pending ∧ (s.leaveTalking).now = s.now ∧ (s.leaveTalking).inReset = s.inReset ∧
    (s.leaveTalking).haltLow = s.haltLow ∧ (s.leaveTalking).strobes = s.strobes ∧ (s.leaveTalking).cfg = s.cfg ∧
    (s.leaveTalking).store = s.store ∧ (s.leaveTalking).fifo = s.fifo ∧ (s.leaveTalking).peers = s.peers ∧
    (s.leaveTalking).sources = s.sources ∧ (s.leaveTalking).players = s.players ∧ (s.leaveTalking).merge = s.merge ∧
    (s.leaveTalking).monitor = s.monitor ∧ (s.leaveTalking).counters = s.counters := by
  simp only [State.leaveTalking]; (repeat' split) <;> simp

@[simp] theorem State.leaveListening_frame (s : State) :
    (s.leaveListening).pending = s.pending ∧ (s.leaveListening).now = s.now ∧
    (s.leaveListening).inReset = s.inReset ∧ (s.leaveListening).haltLow = s.haltLow ∧
    (s.leaveListening).strobes = s.strobes ∧ (s.leaveListening).cfg = s.cfg ∧ (s.leaveListening).store = s.store ∧
    (s.leaveListening).counters = s.counters := by
  simp only [State.leaveListening]; (repeat' split) <;> simp

@[simp] theorem State.closeTransaction_frame (s : State) (n : Nat) :
    (s.closeTransaction n).pending = s.pending ∧ (s.closeTransaction n).now = s.now ∧
    (s.closeTransaction n).inReset = s.inReset ∧ (s.closeTransaction n).haltLow = s.haltLow ∧
    (s.closeTransaction n).strobes = s.strobes ∧ (s.closeTransaction n).cfg = s.cfg ∧
    (s.closeTransaction n).store = s.store ∧ (s.closeTransaction n).line = s.line ∧
    (s.closeTransaction n).fifo = s.fifo ∧ (s.closeTransaction n).peers = s.peers ∧
    (s.closeTransaction n).announce = s.announce ∧ (s.closeTransaction n).sources = s.sources ∧
    (s.closeTransaction n).players = s.players ∧ (s.closeTransaction n).merge = s.merge ∧
    (s.closeTransaction n).output = s.output ∧ (s.closeTransaction n).monitor = s.monitor ∧
    (s.closeTransaction n).tx = s.tx ∧ (s.closeTransaction n).sender = s.sender ∧
    (s.closeTransaction n).node = s.node ∧ (s.closeTransaction n).counters = s.counters :=
    ⟨rfl, rfl, rfl, rfl, rfl, rfl, rfl, rfl, rfl, rfl, rfl, rfl, rfl, rfl, rfl, rfl, rfl, rfl, rfl, rfl⟩

@[simp] theorem State.reportCompleted_frame (s : State) (e : TxEntry) (b : Bool) :
    (s.reportCompleted e b).pending = s.pending ∧ (s.reportCompleted e b).now = s.now ∧
    (s.reportCompleted e b).inReset = s.inReset ∧ (s.reportCompleted e b).haltLow = s.haltLow ∧
    (s.reportCompleted e b).strobes = s.strobes ∧ (s.reportCompleted e b).cfg = s.cfg ∧
    (s.reportCompleted e b).store = s.store ∧ (s.reportCompleted e b).fifo = s.fifo ∧
    (s.reportCompleted e b).peers = s.peers ∧ (s.reportCompleted e b).sources = s.sources ∧
    (s.reportCompleted e b).players = s.players ∧ (s.reportCompleted e b).merge = s.merge ∧
    (s.reportCompleted e b).output = s.output ∧ (s.reportCompleted e b).monitor = s.monitor ∧
    (s.reportCompleted e b).counters = s.counters ∧ (s.reportCompleted e b).events = s.events := by
  simp only [State.reportCompleted]; (repeat' split) <;> simp

end Sys2Proof.Machine
end

