-- ==== Sys2Proof/Laws/State.lean ====
section
/-! SUPPORT. The field each small update of the state writes, as simp rules, so that no proof unfolds a record update. What
an update leaves alone stands in Sys2Proof/Laws/Frames.lean. -/

namespace Sys2Proof.Machine

/-- Two states with the same fields are equal. -/
theorem State.eq_of_fields {u v : State} (pending : u.pending = v.pending) (now : u.now = v.now)
    (inReset : u.inReset = v.inReset) (haltLow : u.haltLow = v.haltLow) (strobes : u.strobes = v.strobes)
    (cfg : u.cfg = v.cfg) (store : u.store = v.store) (line : u.line = v.line) (fifo : u.fifo = v.fifo)
    (peers : u.peers = v.peers) (announce : u.announce = v.announce) (sources : u.sources = v.sources)
    (players : u.players = v.players) (merge : u.merge = v.merge) (output : u.output = v.output)
    (monitor : u.monitor = v.monitor) (tx : u.tx = v.tx) (sender : u.sender = v.sender) (node : u.node = v.node)
    (counters : u.counters = v.counters) (port : u.port = v.port) (events : u.events = v.events) : u = v := by
  cases u; cases v; simp_all

@[simp] theorem State.advance_now (s : State) (t : Nat) : (s.advance t).now = max s.now t := rfl

@[simp] theorem State.advance_peerAt (s : State) (t x : Nat) : (s.advance t).peerAt x = s.peerAt x := by cases x <;> rfl

@[simp] theorem State.report_events (s : State) (k : EventKind) (a b c d : Option Nat) (v : Option Int) :
    (s.report k a b c d v).events = s.events.offer
      { kind := k, count := s.merge.periodCount, station := a, second := b, channel := c, detail := d, value := v } := rfl

@[simp] theorem State.reportBad_counters (s : State) (r : BadReason) (a : Option Nat) (v : Option Int) :
    (s.reportBad r a v).counters =
      { s.counters with badBursts := satAdd Config.counterMax s.counters.badBursts 1 } := rfl

@[simp] theorem State.countTxDropped_counters (s : State) :
    s.countTxDropped.counters =
      { s.counters with txDropped := satAdd Config.counterMax s.counters.txDropped 1 } := rfl

@[simp] theorem State.countCollision_counters (s : State) :
    s.countCollision.counters =
      { s.counters with collisions := satAdd Config.counterMax s.counters.collisions 1 } := rfl

@[simp] theorem State.answer_port (s : State) (r : Result) (d : List Byte) :
    (s.answer r d).port = { s.port with decoder := .givingResponse, response := byte r.code :: d, offered := 0 } := rfl

@[simp] theorem State.endBlocking_port (s : State) :
    s.endBlocking.port = { s.port with blocking := .none, ready := true } := rfl

@[simp] theorem State.setPlayer_players (s : State) (n : Nat) (p : Option Player) :
    (s.setPlayer n p).players = s.players.set n p := rfl

@[simp] theorem State.orphanPlayers_players (s : State) (x : Nat) :
    (s.orphanPlayers x).players = s.players.map (Option.map (Player.orphaned s.store x)) := rfl

@[simp] theorem State.changeStage_output (s : State) (g : Stage) :
    (s.changeStage g).output = { s.output with stage := g } := rfl

@[simp] theorem State.enterNode_node (s : State) (n : NodeState) : (s.enterNode n).node = { s.node with state := n } := rfl

@[simp] theorem State.publish_merge (s : State) (p : Pass) :
    (s.publish p).merge = { s.merge with frame := s.assembleFrame p } := rfl

@[simp] theorem State.publish_strobes (s : State) (p : Pass) : (s.publish p).strobes = s.strobes + 1 := rfl

@[simp] theorem Tx.push_entries (tx : Tx) (e : TxEntry) : (tx.push e).entries = tx.entries ++ [e] := rfl

@[simp] theorem Tx.pop_entries (tx : Tx) : tx.pop.entries = tx.entries.tail := by
  cases h : tx.entries <;> simp [Tx.pop, h]

end Sys2Proof.Machine
end

