-- ==== Sys2Proof/Laws/Commands.lean ====
section
/-! SUPPORT. When the local port takes a command, what the event queue holds after a record is raised, and the tables read and
written by number. -/

namespace Sys2Proof.Machine

/-! ### Taking a command (R155 to R158, R164) -/

theorem State.onPort_open {s a : State} (h : s.Open) : s.onPort a = a := by
  obtain ⟨h1, h2, h3⟩ := h; simp [State.onPort, h1, h2]

theorem State.command_open {s a : State} (h : s.Open) : s.command a = a := by
  rw [State.command, State.onPort_open h]; simp [h.2.2]

theorem State.configCommand_open {s a : State} (h : s.Open) (hc : s.node.state = .config) : s.configCommand a = a := by
  rw [State.configCommand, State.command_open h]; simp [hc]

theorem State.configCommand_elsewhere {s a : State} (h : s.Open) (hc : s.node.state ≠ .config) :
    s.configCommand a = s.answer .state := by
  rw [State.configCommand, State.command_open h]; simp [hc]

theorem State.unlessReset_high {s a : State} (h : s.inReset = false) : s.unlessReset a = a := by
  simp [State.unlessReset, h]

theorem State.unlessReset_low {s a : State} (h : s.inReset = true) : s.unlessReset a = s := by
  simp [State.unlessReset, h]

/-- While RST_N is low a transaction is ignored to its end. -/
theorem State.onPort_low {s a : State} (h : s.inReset = true) :
    s.onPort a = { s with port := { s.port with decoder := .ignoring } } := by
  simp [State.onPort, h]

/-- Bytes that the decoder does not wait for change nothing. -/
theorem State.onPort_ignored {s a : State} (h : s.inReset = false) (hd : s.port.decoder ≠ .waiting) : s.onPort a = s := by
  unfold State.onPort; cases h' : s.port.decoder <;> simp_all

theorem Decoder.discarded_eq (d : Decoder) : d.discarded = if d = .waiting then .waiting else .ignoring := by
  cases d <;> rfl

/-- What SDO carries: the response while it is given, and 0 at any other time. -/
theorem State.sdo_response {s : State} (h : s.inReset = false) (hd : s.port.decoder = .givingResponse) (k : Nat) :
    s.sdo k = s.port.response.getD k 0 := by
  simp [State.sdo, h, hd]

theorem State.sdo_zero {s : State} (h : s.inReset = true ∨ s.port.decoder ≠ .givingResponse) (k : Nat) : s.sdo k = 0 := by
  unfold State.sdo; cases h1 : s.inReset <;> cases h2 : s.port.decoder <;> simp_all

theorem State.sdoBits_get (s : State) (k i : Nat) (h : i < 8) : (s.sdoBits k)[i]? = some ((s.sdo k).getLsbD (7 - i)) := by
  match i, h with
  | 0, _ | 1, _ | 2, _ | 3, _ | 4, _ | 5, _ | 6, _ | 7, _ => rfl

theorem State.activeTalking_iff {s : State} :
    s.activeTalking = true ↔ s.node.state = .active ∧ s.cfg.station ≠ 0 := by
  simp [State.activeTalking, State.listener]

/-! ### The event queue (R168) -/

theorem EventUnit.offer_prefix (e : EventUnit) (r : Record) : e.queue <+: (e.offer r).queue := by
  simp only [EventUnit.offer]; split
  · simp
  · exact List.prefix_refl _

theorem EventUnit.offer_room {e : EventUnit} {r : Record} (h : e.queue.length < 32) :
    (e.offer r).queue = e.queue ++ [r] := by
  simp [EventUnit.offer, Config.eventPlaces, h]

@[simp] theorem EventUnit.offer_routes (e : EventUnit) (r : Record) : (e.offer r).routes = e.routes := by
  simp only [EventUnit.offer]; split <;> rfl

theorem EventUnit.offer_length {e : EventUnit} (r : Record) (h : e.queue.length ≤ 32) : (e.offer r).queue.length ≤ 32 := by
  simp only [EventUnit.offer]; split
  · rename_i hr; simp only [Config.eventPlaces] at hr; simp; omega
  · exact h

theorem State.report_prefix (s : State) (k : EventKind) (a b c d : Option Nat) (v : Option Int) :
    s.events.queue <+: (s.report k a b c d v).events.queue := EventUnit.offer_prefix _ _

theorem State.report_room {s : State} {k : EventKind} {a b c d : Option Nat} {v : Option Int}
    (h : s.events.queue.length < 32) :
    (s.report k a b c d v).events.queue = s.events.queue ++
      [{ kind := k, count := s.merge.periodCount, station := a, second := b, channel := c, detail := d, value := v }] :=
  EventUnit.offer_room h

theorem State.changeStage_prefix (s : State) (g : Stage) : s.events.queue <+: (s.changeStage g).events.queue :=
  State.report_prefix _ _ _ _ _ _ _

/-! ### Tables by number -/

theorem getD_set_self {α : Type} (l : List α) (n : Nat) (x d : α) (h : n < l.length) : (l.set n x).getD n d = x := by
  simp [List.getD_eq_getElem?_getD, h]

theorem getD_set_ne {α : Type} (l : List α) (n m : Nat) (x d : α) (h : m ≠ n) : (l.set n x).getD m d = l.getD m d := by
  simp [List.getD_eq_getElem?_getD, List.getElem?_set_ne (Ne.symm h)]

theorem getD_axisNumbers {α : Type} (f : Nat → α) (d : α) {a : Nat} (h : a < 8) : (axisNumbers.map f).getD a d = f a := by
  simp [axisNumbers, List.getD_eq_getElem?_getD, h]

theorem getD_channelNumbers {α : Type} (f : Nat → α) (d : α) {c : Nat} (h : c < 16) :
    (channelNumbers.map f).getD c d = f c := by
  simp [channelNumbers, List.getD_eq_getElem?_getD, h]

theorem State.produced_contains (s : State) (c : Nat) :
    s.produced.contains c = true ↔ c < 16 ∧ (s.channel c).produce = true := by
  simp [State.produced]

/-- Changing a station's record changes that record and no other. -/
theorem State.mapPeer_at (s : State) (x : Nat) (f : PeerRecord → PeerRecord) (hl : s.peers.length = 15) (h1 : 1 ≤ x)
    (h2 : x ≤ 15) : (s.mapPeer x f).peerAt x = f (s.peerAt x) ∧ ∀ y, y ≠ x → (s.mapPeer x f).peerAt y = s.peerAt y := by
  obtain ⟨n, rfl⟩ : ∃ n, x = n + 1 := ⟨x - 1, by omega⟩
  refine ⟨?_, ?_⟩
  · simp only [State.mapPeer, State.peerAt, List.getD_eq_getElem?_getD, List.getElem?_modify]
    simp [show n < s.peers.length by omega]
  · intro y hy
    cases y with
    | zero => rfl
    | succ m =>
      simp only [State.mapPeer, State.peerAt, List.getD_eq_getElem?_getD, List.getElem?_modify]
      have : n ≠ m := by omega
      simp [this]

theorem State.mapPeer_length (s : State) (x : Nat) (f : PeerRecord → PeerRecord) :
    (s.mapPeer x f).peers.length = s.peers.length := by
  cases x <;> simp [State.mapPeer]

theorem State.peerAt_congr {s t : State} (h : s.peers = t.peers) (x : Nat) : s.peerAt x = t.peerAt x := by
  cases x <;> simp [State.peerAt, h]

/-! ### Values -/

theorem cueOf_eq (w : Word16) : cueOf w = max (-32767) w.toInt := by
  have : -32768 ≤ w.toInt := by have := BitVec.le_toInt w; simpa using this
  simp only [cueOf, takeCue]; split <;> omega

/-- The two bytes of a value put together again (R155). -/
theorem word16_bytes16 (n : Nat) : word16 (byte (n / 256)) (byte n) = BitVec.ofNat 16 n := by
  apply BitVec.eq_of_toNat_eq
  simp only [word16, byte, BitVec.toNat_append, BitVec.toNat_ofNat]
  rw [← Nat.shiftLeft_add_eq_or_of_lt (by omega)]
  simp only [Nat.shiftLeft_eq]; omega

end Sys2Proof.Machine
end

