-- ==== Sys2Proof/Laws/Vote.lean ====
section
/-! SUPPORT. What the mode vote can do (R61, R67, R69, R71): forming the own request, evaluating the effective mode, turning
the stage, and the three together. -/

namespace Sys2Proof.Machine

/-! ### The order of requests (R2) -/

theorem Mode.worse_left (a b : Mode) : a.code ≤ (a.worse b).code := by cases a <;> cases b <;> decide

theorem Mode.worse_right (a b : Mode) : b.code ≤ (a.worse b).code := by cases a <;> cases b <;> decide

theorem Mode.worse_le (a b m : Mode) : (a.worse b).code ≤ m.code ↔ a.code ≤ m.code ∧ b.code ≤ m.code := by
  cases a <;> cases b <;> cases m <;> decide

theorem Mode.live_le (m : Mode) : Mode.live.code ≤ m.code := by cases m <;> decide

theorem Mode.park_of_le {m : Mode} (h : Mode.park.code ≤ m.code) : m = .park := by
  cases m <;> first | rfl | (exact absurd h (by decide))

theorem foldl_worse_le (l : List PeerRecord) (m : Mode) : ∀ a : Mode,
    (l.foldl (fun m p => m.worse p.vote) a).code ≤ m.code ↔ a.code ≤ m.code ∧ ∀ p ∈ l, p.vote.code ≤ m.code := by
  induction l with
  | nil => simp
  | cons p l ih => intro a; simp only [List.foldl_cons, ih, Mode.worse_le, List.mem_cons, forall_eq_or_imp, and_assoc]

/-! ### What the votes give -/

theorem State.ownRequest_le (s : State) : s.output.ownRequest.code ≤ s.formEffective.code := by
  simp only [State.formEffective]
  exact Nat.le_trans ((foldl_worse_le _ _ _).1 (Nat.le_refl _)).1 (Mode.worse_left _ _)

theorem State.formEffective_congr {s t : State} (h : t.peers = s.peers) (h' : t.cfg = s.cfg)
    (h2 : t.output.ownRequest = s.output.ownRequest) : t.formEffective = s.formEffective := by
  simp [State.formEffective, State.roleMissing, State.roleCounted, State.listener, h, h', h2]

theorem State.formOwnRequest_congr {s t : State} (h1 : t.haltLow = s.haltLow)
    (h2 : t.output.localRequest = s.output.localRequest) (h3 : t.monitor.trip = s.monitor.trip)
    (h4 : t.node.state = s.node.state) : t.formOwnRequest = s.formOwnRequest := by
  simp [State.formOwnRequest, h1, h2, h3, h4]

/-- HALT_N, the trip latch and FAULT each make the own request PARK (R63, R64, R114). -/
theorem State.formOwnRequest_park {s : State} (h : s.haltLow = true ∨ s.monitor.trip = true ∨ s.node.state = .fault) :
    s.formOwnRequest = .park := by
  apply Mode.park_of_le
  simp only [State.formOwnRequest]
  rcases h with h | h | h
  · refine Nat.le_trans ?_ (Mode.worse_left _ _); refine Nat.le_trans ?_ (Mode.worse_left _ _)
    refine Nat.le_trans ?_ (Mode.worse_left _ _); refine Nat.le_trans ?_ (Mode.worse_right _ _); simp [requestWhile, h]
  · refine Nat.le_trans ?_ (Mode.worse_left _ _); refine Nat.le_trans ?_ (Mode.worse_left _ _)
    refine Nat.le_trans ?_ (Mode.worse_right _ _); simp [requestWhile, h]
  · refine Nat.le_trans ?_ (Mode.worse_left _ _); refine Nat.le_trans ?_ (Mode.worse_right _ _); simp [requestWhile, h]

theorem State.localRequest_le (s : State) : s.output.localRequest.code ≤ s.formOwnRequest.code := by
  simp only [State.formOwnRequest]
  exact Nat.le_trans (Mode.worse_left _ _)
    (Nat.le_trans (Mode.worse_left _ _) (Nat.le_trans (Mode.worse_left _ _) (Mode.worse_left _ _)))

/-! ### The three steps of a vote -/

theorem State.formRequest_output (s : State) :
    s.formRequest.output = { s.output with ownRequest := s.formOwnRequest } := by
  simp only [State.formRequest]; split
  · rename_i h; rw [h]
  · split <;> simp

theorem State.formRequest_silent {s : State} (h : s.sender.state = .silent) :
    s.formRequest = { s with output := { s.output with ownRequest := s.formOwnRequest } } := by
  simp only [State.formRequest]; split
  · rename_i h; simp [h]
  · simp

theorem State.evaluateMode_output (s : State) : s.evaluateMode.output = { s.output with effective := s.formEffective } := by
  simp only [State.evaluateMode]; split
  · rename_i h; rw [h]
  · simp

theorem State.turnStage_output (s : State) :
    s.turnStage.output = { s.output with stage := s.turnStage.output.stage } := by
  simp only [State.turnStage]; split <;> split <;> simp

theorem State.turnStage_stage (s : State) :
    (s.turnStage.output.stage = .live ∨ s.turnStage.output.stage = .rising) ↔ s.mayRise = true := by
  simp only [State.turnStage]; split <;> split <;> simp_all

theorem State.parkNow_output (s : State) : s.parkNow.output = { s.output with stage := .parked, factor := 0 } := by
  simp only [State.parkNow]; split
  · rename_i h; simp [← h]
  · simp

/-! ### The vote as one -/

/-- The requests, the effective mode and the factor after a vote; the stage is said by `State.revote_stage`. -/
theorem State.revote_output (s : State) :
    s.revote.output.ownRequest = s.formOwnRequest ∧ s.revote.output.localRequest = s.output.localRequest ∧
    s.revote.output.factor = s.output.factor ∧ s.revote.output.effective = s.formRequest.formEffective := by
  simp only [State.revote]; rw [State.turnStage_output, State.evaluateMode_output, State.formRequest_output]
  exact ⟨rfl, rfl, rfl, rfl⟩

/-- After a vote the own request and the effective mode are what their inputs give. -/
theorem State.revote_voted (s : State) : s.revote.Voted := by
  obtain ⟨h1, h2, -, h4⟩ := s.revote_output
  refine ⟨?_, ?_⟩
  · rw [State.RequestLaw, h1]; symm
    exact State.formOwnRequest_congr (by simp) h2 (by simp) (by simp)
  · rw [h4]; symm
    exact State.formEffective_congr (by simp) (by simp) (by rw [h1, State.formRequest_output])

theorem State.voted_congr {s t : State} (h : s.Voted) (h1 : t.haltLow = s.haltLow) (h2 : t.output = s.output)
    (h3 : t.monitor.trip = s.monitor.trip) (h4 : t.node.state = s.node.state) (h5 : t.peers = s.peers)
    (h6 : t.cfg = s.cfg) : t.Voted := by
  obtain ⟨a, b⟩ := h
  refine ⟨?_, ?_⟩
  · rw [State.RequestLaw, h2, a]; symm; exact State.formOwnRequest_congr h1 (by rw [h2]) h3 h4
  · rw [h2, b]; symm; exact State.formEffective_congr h5 h6 (by rw [h2])

/-- After a vote the stage is LIVE or RISING exactly when the effective mode is LIVE on an ACTIVE node (R71). -/
theorem State.revote_stage (s : State) : (s.revote.output.stage = .live ∨ s.revote.output.stage = .rising) ↔
    s.revote.output.effective = .live ∧ s.node.state = .active := by
  have h : s.revote.output.effective = s.formRequest.evaluateMode.output.effective := by
    simp only [State.revote]; rw [State.turnStage_output]
  rw [h]; simp only [State.revote]; rw [State.turnStage_stage]; simp [State.mayRise]

/-- A vote raises its own records and no other (R69, R71, R79). -/
theorem State.revote_raised (s : State) : s.Raised s.revote [] := by
  have hs : s.revote.output.stage = s.formRequest.evaluateMode.turnStage.output.stage := rfl
  obtain ⟨-, -, h3, h4⟩ := s.revote_output
  simp only [State.Raised, State.voteRecords, h3, h4, hs]
  simp only [State.revote, State.turnStage, State.evaluateMode, State.mayRise, State.changeStage, State.report,
    State.formRequest_output]
  (repeat' split) <;> simp_all [State.formRequest_output]

/-- While the Level Sender is SILENT a vote queues nothing. -/
theorem State.revote_silent {s : State} (h : s.sender.state = .silent) :
    s.revote.tx = s.tx ∧ s.revote.line = s.line ∧ s.revote.announce = s.announce ∧ s.revote.sender = s.sender := by
  simp only [State.revote, State.turnStage_frame, State.evaluateMode_frame, State.formRequest_silent h, and_self]

theorem State.evaluateMode_prefix (s : State) : s.events.queue <+: s.evaluateMode.events.queue := by
  simp only [State.evaluateMode]; split
  · exact List.prefix_refl _
  · exact State.report_prefix _ _ _ _ _ _ _

theorem State.turnStage_prefix (s : State) : s.events.queue <+: s.turnStage.events.queue := by
  simp only [State.turnStage]; split <;> split <;> first | exact List.prefix_refl _ | exact State.changeStage_prefix _ _

/-- A vote only adds records behind those held. -/
theorem State.revote_prefix (s : State) : s.events.queue <+: s.revote.events.queue := by
  have h : s.formRequest.events = s.events := by simp
  simp only [State.revote]; rw [← h]
  exact (State.evaluateMode_prefix _).trans (State.turnStage_prefix _)

end Sys2Proof.Machine
end

