-- ==== Sys2Proof/Laws/Queue.lean ====
section
/-! SUPPORT. What the Transmit Queue's operations can do: how entering DEFER, joining and leaving change the entries, the
engine, the line and the announce state, and what asking for a LEVEL comes to (R116 to R127, R139). -/

namespace Sys2Proof.Machine

/-! ### Entering DEFER (R120, R139) -/

/-- Where the gap has not ended or carrier is present, the engine waits in DEFER. -/
theorem State.enterDefer_waits {s : State} (h : s.gapEnded = false ∨ s.carrier = true) :
    s.enterDefer = { s with tx := { s.tx with engine := s.tx.engine.at .defer }, line := { s.line with wait := .none } } := by
  simp only [State.enterDefer]; rw [if_neg]; rcases h with h | h <;> simp [h]

/-- Where the gap has ended on a free line, the attempt starts at once. -/
theorem State.enterDefer_starts {s : State} (h : s.gapEnded = true) (h' : s.carrier = false) :
    s.enterDefer = State.startAttempt { s with
      tx := { s.tx with engine := s.tx.engine.at .defer }, line := { s.line with wait := .none } } s.now := by
  simp only [State.enterDefer]; rw [if_pos ⟨h, h'⟩]

theorem Engine.at_at (a b : Work) (e : Engine) : Engine.at a (Engine.at b e) = Engine.at a e := by cases e <;> rfl

theorem Engine.at_work {e : Engine} {w w' : Work} (h : e.work = some w') : (e.at w).work = some w := by
  revert h; cases e <;> simp [Engine.at, Engine.work]

theorem State.startAttempt_drives {s : State} {t : Nat} (h : s.tx.entries ≠ []) :
    (s.startAttempt t).tx.engine = s.tx.engine.at .driving ∧ ∃ b, (s.startAttempt t).line.drive = .driving b t := by
  simp only [State.startAttempt]; split
  · contradiction
  · exact ⟨rfl, _, rfl⟩

theorem State.enterDefer_drives {s : State} (h : s.gapEnded = true) (h' : s.carrier = false) (h2 : s.tx.entries ≠ []) :
    s.enterDefer.tx.engine = s.tx.engine.at .driving ∧ ∃ b, s.enterDefer.line.drive = .driving b s.now := by
  rw [State.enterDefer_starts h h']
  have := State.startAttempt_drives (t := s.now) (s := { s with
    tx := { s.tx with engine := s.tx.engine.at .defer }, line := { s.line with wait := .none } }) h2
  rw [Engine.at_at] at this; exact this

theorem State.enterDefer_engine (s : State) :
    s.enterDefer.tx.engine = s.tx.engine.at .defer ∨ s.enterDefer.tx.engine = s.tx.engine.at .driving := by
  simp only [State.enterDefer]; split
  · simp only [State.startAttempt]; split
    · left; rfl
    · right; simp [Engine.at_at]
  · left; rfl

/-! ### The entries -/

/-- The entries after an attempt may have started: the same, but that the first may have begun. -/
def Started (l l' : List TxEntry) : Prop :=
  l' = l ∨ ∃ e rest, ∃ s : State, l = e :: rest ∧ l' = s.begunEntry e :: rest

theorem begunEntry_body {s : State} {e : TxEntry} (h : e.isPage = false) : (s.begunEntry e).body = e.body := by
  simp only [State.begunEntry]; split
  · rfl
  · split
    · rename_i h'; simp [TxEntry.isPage, h'] at h
    · rfl

theorem State.startAttempt_started (s : State) (t : Nat) : Started s.tx.entries (s.startAttempt t).tx.entries := by
  simp only [State.startAttempt]; split
  · exact .inl rfl
  · rename_i e r h; exact .inr ⟨e, r, s, h, rfl⟩

theorem State.enterDefer_started (s : State) : Started s.tx.entries s.enterDefer.tx.entries := by
  simp only [State.enterDefer]; split
  · exact State.startAttempt_started { s with
      tx := { s.tx with engine := s.tx.engine.at .defer }, line := { s.line with wait := .none } } _
  · exact .inl rfl

theorem State.wake_started (s : State) : Started s.tx.entries s.wake.tx.entries := by
  simp only [State.wake]; split
  · exact State.enterDefer_started s
  · exact .inl rfl

theorem State.enqueue_started (s : State) (e : TxEntry) : Started (s.tx.entries ++ [e]) (s.enqueue e).tx.entries :=
  State.wake_started { s with tx := s.tx.push e }

theorem State.nextEntry_started (s : State) (g : Bool) : Started s.tx.entries (s.nextEntry g).tx.entries := by
  simp only [State.nextEntry]; split
  · split
    · exact .inl rfl
    · exact State.enterDefer_started s
  · split
    · exact .inl rfl
    · exact State.enterDefer_started s
  · exact .inl rfl

theorem Started.length {l l' : List TxEntry} (h : Started l l') : l'.length = l.length := by
  rcases h with rfl | ⟨e, r, s, rfl, rfl⟩ <;> simp

theorem Started.tail {l l' : List TxEntry} (h : Started l l') : l'.tail = l.tail := by
  rcases h with rfl | ⟨e, r, s, rfl, rfl⟩ <;> simp

/-- An entry that has joined keeps its body, unless it is a page. -/
theorem Started.last {l l' : List TxEntry} {e : TxEntry} (h : Started (l ++ [e]) l') (hp : e.isPage = false) :
    ∃ e', l'.getLast? = some e' ∧ e'.body = e.body := by
  rcases h with rfl | ⟨e2, r, s, h, rfl⟩
  · exact ⟨e, by simp, rfl⟩
  · cases l with
    | nil => simp at h; obtain ⟨rfl, rfl⟩ := h; exact ⟨s.begunEntry e, by simp, begunEntry_body hp⟩
    | cons a l =>
      simp at h; obtain ⟨rfl, rfl⟩ := h
      exact ⟨e, by rw [← List.cons_append, List.getLast?_append]; rfl, rfl⟩

theorem State.enterDefer_positions (s : State) :
    s.enterDefer.tx.current = s.tx.current ∧ s.enterDefer.tx.last = s.tx.last := by
  simp only [State.enterDefer, State.startAttempt]; (repeat' split) <;> exact ⟨rfl, rfl⟩

theorem State.nextEntry_positions (s : State) (g : Bool) :
    (s.nextEntry g).tx.current = s.tx.current ∧ (s.nextEntry g).tx.last = s.tx.last := by
  simp only [State.nextEntry]; (repeat' split) <;> first | exact ⟨rfl, rfl⟩ | exact State.enterDefer_positions s

theorem groupPages_length (d : List Declaration) : (groupPages d).length = max 1 ((d.length + 3) / 4) := by
  simp [groupPages]

theorem foldl_push (l : List TxEntry) : ∀ tx : Tx, (l.foldl Tx.push tx).entries = tx.entries ++ l := by
  induction l with
  | nil => simp
  | cons e l ih => intro tx; simp [ih, Tx.push]

/-- With nothing held outside the queue, a freed place takes nothing. -/
theorem State.settleWaiting_none {s : State} (h : s.sender.pending = none) (h' : s.announce.waiting = false) :
    s.settleWaiting = s := by
  simp [State.settleWaiting, h, h']

/-- Only an idle engine turns to an entry that joins. -/
theorem State.wake_busy {s : State} (h : s.tx.engine ≠ .idle) : s.wake = s := by simp [State.wake, h]

/-- With a place free, no group waiting and the engine not idle, the pending LEVEL joins and nothing else moves. -/
theorem State.settleWaiting_held {s : State} (h : s.tx.engine ≠ .idle) (hl : s.tx.entries.length < 8)
    (hw : s.announce.waiting = false) :
    s.settleWaiting.tx.entries = s.tx.entries ++ s.heldLevel ∧
      s.settleWaiting.sender = { s.sender with pending := none } ∧ s.settleWaiting.tx.engine = s.tx.engine ∧
      s.settleWaiting.announce = s.announce ∧ s.settleWaiting.line = s.line := by
  cases hp : s.sender.pending with
  | none =>
    rw [State.settleWaiting_none hp hw]
    exact ⟨by simp [State.heldLevel, hp], by rw [← hp], rfl, rfl, rfl⟩
  | some hold =>
    have hf : s.tx.full = false := decide_eq_false (Nat.not_le.2 hl)
    simp [State.settleWaiting, hp, hf, State.enqueue, State.wake_busy, h, hw, Tx.push, State.heldLevel,
      State.levelPairs, State.produced, State.channel]

theorem TxEntry.hasLaterPages_of {e : TxEntry} (h : e.isPage = false) : e.hasLaterPages = false := by
  obtain ⟨b, q, a, g⟩ := e
  cases b <;> simp [TxEntry.isPage] at h <;> rfl

/-! ### Asking for a LEVEL (R118) -/

theorem State.levelPairs_congr {s a : State} (h1 : a.cfg = s.cfg) (h2 : a.sender.posted = s.sender.posted) :
    a.levelPairs = s.levelPairs := by
  simp [State.levelPairs, State.produced, State.channel, h1, h2]

theorem State.freshLevel_any (s : State) :
    (s.tx.entries.any fun e => e.isLevel && !e.begun) = true ↔ ∃ e ∈ s.tx.entries, e.freshLevel = true := by
  simp [List.any_eq_true, TxEntry.freshLevel]

/-- Starting an attempt leaves the queue as it stands but for the first entry, which it begins. -/
theorem State.startAttempt_queueIs {s : State} (t : Nat) (h : s.tx.entries ≠ []) :
    (s.startAttempt t).QueueIs s.tx.entries s.announce := by
  cases he : s.tx.entries with
  | nil => exact absurd he h
  | cons e rest =>
    have hw : (s.startAttempt t).tx.engine.work = some .driving := by
      simp only [State.startAttempt, he]; cases s.tx.engine <;> rfl
    cases hb : e.begun with
    | true => left; simp [State.startAttempt, he, State.begunEntry, hb]
    | false =>
      refine .inr ⟨hw, e, rest, s.begunEntry e, rfl, by simp [State.startAttempt, he], hb, ?_, ?_, ?_⟩
      · simp [State.begunEntry, hb]
      · intro hp
        obtain ⟨b, q, a, g⟩ := e
        refine ⟨?_, by simp [State.startAttempt, he, hp]⟩
        cases b with
        | page pos i c k d => cases i <;> simp_all [State.begunEntry, TxEntry.isPage0]
        | _ => simp_all [State.begunEntry]
      · intro hp
        obtain ⟨b, q, a, g⟩ := e
        refine ⟨?_, by simp only [State.startAttempt, he]; split <;> rfl⟩
        cases b with
        | page pos i c k d => cases i <;> simp_all [State.begunEntry, TxEntry.isPage0]
        | _ => simp [TxEntry.isPage0] at hp

theorem State.enterDefer_queueIs {s : State} (h : s.tx.entries ≠ []) : s.enterDefer.QueueIs s.tx.entries s.announce := by
  simp only [State.enterDefer]; split
  · exact State.startAttempt_queueIs _ h
  · exact .inl ⟨rfl, rfl⟩

/-- An entry joins behind the others, and an idle engine turns to the queue. -/
theorem State.enqueue_queueIs (s : State) (e : TxEntry) : (s.enqueue e).QueueIs (s.tx.entries ++ [e]) s.announce := by
  simp only [State.enqueue, State.wake]; split
  · exact State.enterDefer_queueIs (by simp [Tx.push])
  · exact .inl ⟨rfl, rfl⟩

/-- Asking for a LEVEL does what R118 says, from a state that agrees with `s` on the queue, the line and what a LEVEL reads. -/
theorem State.queueLevel_asked {s a : State} (h : Bool) (h1 : a.tx = s.tx) (h2 : a.levelPairs = s.levelPairs)
    (h3 : a.sender.pending = s.sender.pending) (h4 : a.line = s.line) (h5 : a.announce = s.announce) :
    s.LevelAsked (a.queueLevel h) h := by
  have hany := State.freshLevel_any a
  simp only [State.LevelAsked, State.queueLevel]
  refine ⟨fun hf => ?_, fun hf hl => ?_, fun hf hl => ?_⟩
  · rw [if_pos (by rw [hany, h1]; exact hf)]
    refine ⟨?_, h4, h5, h3⟩
    simp only [← h1, ← h2]; congr 1
  · rw [if_neg (by rw [hany, h1]; rintro ⟨e, he, h'⟩; rw [hf e he] at h'; cases h'),
      if_pos (by simp [Tx.full, Config.txPlaces, h1, hl])]
    exact ⟨h1, h4, h5, rfl⟩
  · rw [if_neg (by rw [hany, h1]; rintro ⟨e, he, h'⟩; rw [hf e he] at h'; cases h'),
      if_neg (by simp [Tx.full, Config.txPlaces, h1, hl])]
    rw [← h1, ← h2, ← h3, ← h4, ← h5]
    refine ⟨State.enqueue_queueIs _ _, by simp, ?_, ?_, fun hi => ?_, fun hi => ?_⟩
    · simp only [State.enqueue, State.wake]; split
      · exact (State.enterDefer_positions _).1
      · rfl
    · simp only [State.enqueue, State.wake]; split
      · exact (State.enterDefer_positions _).2
      · rfl
    · rw [State.enqueue, State.wake_busy (by simpa [Tx.push] using hi)]
      exact ⟨rfl, rfl, rfl⟩
    · have hw : a.enqueue { body := .level a.levelPairs h } =
          State.enterDefer { a with tx := a.tx.push { body := .level a.levelPairs h } } := by
        simp [State.enqueue, State.wake, Tx.push, hi]
      rw [hw]
      simp only [State.enterDefer]; split
      · cases ht : a.tx.entries <;> simp [State.startAttempt, Tx.push, hi, ht, Engine.at]
      · simp [Tx.push, hi, Engine.at]

/-- Of the Level Sender, asking for a LEVEL changes the pending LEVEL only. -/
theorem State.queueLevel_sender (s : State) (h : Bool) :
    (s.queueLevel h).sender = { s.sender with pending := (s.queueLevel h).sender.pending } := by
  simp only [State.queueLevel]; split
  · rfl
  · split
    · rfl
    · simp

theorem State.revote_sender (s : State) : s.revote.sender = { s.sender with pending := s.revote.sender.pending } := by
  have h : s.revote.sender = s.formRequest.sender := by simp [State.revote]
  rw [h]; simp only [State.formRequest]; split
  · rfl
  · split
    · rfl
    · rw [State.queueLevel_sender]

/-- A vote tells the Level Sender of a changed own request, and leaves the queue alone otherwise (R65, R133). -/
theorem State.revote_told (s : State) : s.RequestTold s.revote := by
  obtain ⟨h1, -⟩ := s.revote_output
  simp only [State.RequestTold, h1]
  have hr : s.revote.tx = s.formRequest.tx ∧ s.revote.line = s.formRequest.line ∧
      s.revote.announce = s.formRequest.announce ∧ s.revote.sender = s.formRequest.sender := by simp [State.revote]
  obtain ⟨hx, hl, ha, hp⟩ := hr
  refine ⟨fun hc hs => ?_, fun h => ?_⟩
  · have := State.queueLevel_asked (s := s) (a := { s with output := { s.output with ownRequest := s.formOwnRequest } })
      s.sender.holdFlag rfl rfl rfl rfl rfl
    simp only [State.LevelAsked, hx, hl, ha, hp, State.QueueIs, State.formRequest, if_neg hc, if_neg hs] at this ⊢
    exact this
  · rw [hx, hl, ha, hp]; simp only [State.formRequest]
    rcases h with h | h
    · rw [if_pos h]; exact ⟨rfl, rfl, rfl, rfl⟩
    · split <;> simp

/-! ### The line while something is driven -/

/-- Of the line, `u` has changed the wait only. -/
def LineKept (s u : State) : Prop := u.line = { s.line with wait := u.line.wait }

theorem LineKept.drive {s u : State} (h : LineKept s u) : u.line.drive = s.line.drive := by rw [h]

theorem LineKept.trans {s t u : State} (h : LineKept s t) (h' : LineKept t u) : LineKept s u := by
  unfold LineKept at *; rw [h', h]

theorem LineKept.of_eq {s u : State} (h : u.line = s.line) : LineKept s u := by unfold LineKept; rw [h]

theorem State.enterDefer_line {s : State} (h : s.line.drive ≠ .idle) : LineKept s s.enterDefer := by
  unfold LineKept; rw [State.enterDefer_waits (.inr (by simp [State.carrier, h]))]

theorem State.wake_line {s : State} (h : s.line.drive ≠ .idle) : LineKept s s.wake := by
  simp only [State.wake]; split
  · exact State.enterDefer_line h
  · exact LineKept.of_eq rfl

theorem State.enqueue_line {s : State} (e : TxEntry) (h : s.line.drive ≠ .idle) : LineKept s (s.enqueue e) :=
  State.wake_line (s := { s with tx := s.tx.push e }) h

theorem State.joinGroup_line {s : State} (h : s.line.drive ≠ .idle) : LineKept s s.joinGroup := by
  simp only [State.joinGroup]; split
  · exact State.wake_line (s := { s with tx := _, announce := _ }) h
  · exact LineKept.of_eq rfl

theorem State.settleWaiting_line {s : State} (h : s.line.drive ≠ .idle) : LineKept s s.settleWaiting := by
  simp only [State.settleWaiting]
  have h1 : ∀ t : State, LineKept s t → LineKept s (if t.announce.waiting then t.joinGroup else t) := by
    intro t ht; split
    · exact ht.trans (State.joinGroup_line (by rw [ht.drive]; exact h))
    · exact ht
  apply h1
  split
  · split
    · exact LineKept.of_eq rfl
    · exact State.enqueue_line (s := { s with sender := _ }) _ h
  · exact LineKept.of_eq rfl

theorem State.nextEntry_line {s : State} (g : Bool) (h : s.line.drive ≠ .idle) : LineKept s (s.nextEntry g) := by
  simp only [State.nextEntry]; split
  · split
    · rfl
    · exact State.enterDefer_line h
  · split
    · rfl
    · exact State.enterDefer_line h
  · exact LineKept.of_eq rfl

/-! ### Failed attempts (R123, R143) -/

/-- A failed attempt of an entry other than a TRIGGER: kept below the limit and with persist, else dropped. -/
theorem State.attemptFailed_other {s : State} {e : TxEntry} {rest : List TxEntry}
    (he : s.tx.entries = e :: rest) (hb : ∀ item q d, e.body ≠ .trigger item q d) :
    s.attemptFailed = if e.attempts + 1 < 12 then s.keepForRetry { e with attempts := e.attempts + 1 }
      else if s.cfg.timing.persist then s.keepForRetry { e with attempts := 0 } else s.dropCurrent .excessive := by
  obtain ⟨eb, es, ea, eg⟩ := e
  cases eb with
  | trigger i q d => exact absurd rfl (hb i q d)
  | page => simp only [State.attemptFailed, he]; rfl
  | level => simp only [State.attemptFailed, he]; rfl
  | bye => simp only [State.attemptFailed, he]; rfl

/-- A failed attempt of a TRIGGER: dropped as stale once its deadline has passed, else as any other entry. -/
theorem State.attemptFailed_trigger {s : State} {e : TxEntry} {rest : List TxEntry} {item : TriggerItem} {q d : Nat}
    (he : s.tx.entries = e :: rest) (hb : e.body = .trigger item q d) :
    s.attemptFailed = if d ≤ s.now then s.dropStale 0 item
      else if e.attempts + 1 < 12 then s.keepForRetry { e with attempts := e.attempts + 1 }
      else if s.cfg.timing.persist then s.keepForRetry { e with attempts := 0 } else s.dropCurrent .excessive := by
  simp only [State.attemptFailed, he, hb]; rfl

/-- An entry kept with slots drawn: the register steps once, and the wait runs from now. -/
theorem State.keepForRetry_waits {s : State} {e x : TxEntry} {rest : List TxEntry} (he : s.tx.entries = x :: rest)
    (hs : drawSlots (lfsrStep s.line.backoffReg) e.attempts ≠ 0) : s.keepForRetry e = { s with
      tx := { s.tx with entries := e :: rest, engine := s.tx.engine.at .backoff }
      line := { s.line with
        backoffReg := lfsrStep s.line.backoffReg
        wait := .running (s.now + drawSlots (lfsrStep s.line.backoffReg) e.attempts * 128) } } := by
  simp only [State.keepForRetry, he]; rw [if_neg hs]; rfl

/-- An entry kept with no slots drawn goes to DEFER at once, with the register stepped. -/
theorem State.keepForRetry_defers {s : State} {e x : TxEntry} {rest : List TxEntry} (he : s.tx.entries = x :: rest)
    (hs : drawSlots (lfsrStep s.line.backoffReg) e.attempts = 0) : s.keepForRetry e = State.enterDefer { s with
      tx := { s.tx with entries := e :: rest, engine := s.tx.engine.at .backoff }
      line := { s.line with backoffReg := lfsrStep s.line.backoffReg, wait := .running s.now } } := by
  simp only [State.keepForRetry, he]; rw [if_pos hs]; simp [hs]

/-! ### Announce groups (R105) -/

/-- `b` still has a group on its way, or remembered, if `a` has. -/
def GroupKept (a b : Announce) : Prop :=
  (a.state ≠ .none ∨ a.remembered = true) → (b.state ≠ .none ∨ b.remembered = true)

theorem State.startAttempt_group (s : State) (t : Nat) : GroupKept s.announce (s.startAttempt t).announce := by
  simp only [State.startAttempt]; split
  · exact id
  · split <;> simp [GroupKept]

theorem State.wake_group (s : State) : GroupKept s.announce s.wake.announce := by
  simp only [State.wake, State.enterDefer]; (repeat' split) <;> first
    | exact id
    | exact State.startAttempt_group { s with
        tx := { s.tx with engine := s.tx.engine.at .defer }, line := { s.line with wait := .none } } _

theorem State.formRequest_group (s : State) : GroupKept s.announce s.formRequest.announce := by
  simp only [State.formRequest, State.queueLevel]; (repeat' split) <;> first
    | exact id
    | exact State.wake_group { s with output := { s.output with ownRequest := s.formOwnRequest }, tx := s.tx.push _ }

theorem State.revote_group (s : State) : GroupKept s.announce s.revote.announce := by
  have : s.revote.announce = s.formRequest.announce := by simp [State.revote]
  rw [this]; exact State.formRequest_group s

theorem State.queueGroup_group (s : State) :
    s.queueGroup.announce.state ≠ .none ∨ s.queueGroup.announce.remembered = true := by
  simp only [State.queueGroup, State.joinGroup]; split
  · exact State.wake_group { s with tx := _, announce := _ } (.inl (by simp))
  · simp

/-- A re-announce request on a joined talking node leaves a group on its way or remembered. -/
theorem State.requestAnnounce_group (s : State) (h : s.cfg.station ≠ 0)
    (h2 : s.node.state = .joining ∨ s.node.state = .active) :
    s.requestAnnounce.announce.state ≠ .none ∨ s.requestAnnounce.announce.remembered = true := by
  simp only [State.requestAnnounce, State.listener]; rw [if_neg (by simpa using h), if_pos h2]
  split
  · split
    · simp
    · exact State.queueGroup_group s
  · rename_i h; simp [h]
  · simp

end Sys2Proof.Machine
end

