-- ==== Sys2Proof/Laws/Announce.lean ====
section
/-! SUPPORT. What the start of an attempt, the queueing of this node's announce group, a re-announce request and FAULT entry come to,
each said once in the words of Safety (R105, R114, R119, R121, R139). -/

namespace Sys2Proof.Machine

/-! ### The start of an attempt (R121, R139) -/

/-- The known mask names the stations this node holds PRESENT or HOLDING, itself apart (R97). -/
theorem State.knownMask_bit (s : State) (st : Nat) : s.knownMask.getLsbD st = true ↔
    st ≤ 15 ∧ (s.peerAt st).self = false ∧ ((s.peerAt st).link = .present ∨ (s.peerAt st).link = .holding) := by
  have hs : (stations.filter fun st => (s.peerAt st).link.heard && !(s.peerAt st).self).SortedLT :=
    (List.Pairwise.filter _ (by decide)).sortedLT
  have hb : ∀ n : Nat, n.testBit st = decide (st ∈ n.bitIndices) := fun n => by simp
  have hh : ∀ l : Link, l.heard = true ↔ l = .present ∨ l = .holding := by intro l; cases l <;> simp [Link.heard]
  have hm : st ∈ stations ↔ 1 ≤ st ∧ st ≤ 15 := by
    simp only [stations, List.mem_map, List.mem_range]
    exact ⟨by rintro ⟨a, h, rfl⟩; omega, fun h => ⟨st - 1, by omega, by omega⟩⟩
  simp only [State.knownMask, BitVec.getLsbD_ofNat, hb, Nat.bitIndices_sum_map_two_pow hs, List.mem_filter, hm,
    Bool.and_eq_true, decide_eq_true_eq, hh, Bool.not_eq_true']
  constructor
  · rintro ⟨_, ⟨h1, h2⟩, h3, h4⟩; exact ⟨h2, h4, h3⟩
  · rintro ⟨h2, h4, h3⟩
    refine ⟨by omega, ⟨?_, h2⟩, h3, h4⟩
    cases st with
    | zero => rcases h3 with h | h <;> cases h
    | succ n => omega

/-- Starting an attempt begins the drive of the first entry, and leaves the quiet count and the wait. -/
theorem State.startAttempt_begins {s : State} {e : TxEntry} {rest : List TxEntry} {t : Nat} (h : s.tx.entries = e :: rest)
    (ht : t = s.now) : s.DriveBegins (s.startAttempt t) e rest ∧ (s.startAttempt t).line.wait = s.line.wait ∧
      (s.startAttempt t).line.quiet = s.line.quiet := by
  subst ht
  generalize hv : s.startAttempt s.now = v
  simp only [State.startAttempt, h] at hv; subst hv
  refine ⟨⟨s.begunEntry e, _, rfl, rfl, ?_, ?_, ?_, rfl, rfl, rfl, ?_, ?_, ?_, ?_, ?_, ?_, fun i => ?_, rfl⟩, rfl, rfl⟩
  · cases hb : e.begun <;> simp [State.begunEntry, hb]
    rw [← hb]
  · intro hb; simp [State.begunEntry, hb]
  · intro hb; simp [State.begunEntry, hb]
  · intro pairs hold hb
    have : (s.begunEntry e).body = e.body := begunEntry_body (by simp [TxEntry.isPage, hb])
    simp [State.buildBurst, this, hb]
  · intro item q d hb
    have : (s.begunEntry e).body = e.body := begunEntry_body (by simp [TxEntry.isPage, hb])
    simp [State.buildBurst, this, hb]
  · intro hb
    have : (s.begunEntry e).body = e.body := begunEntry_body (by simp [TxEntry.isPage, hb])
    simp [State.buildBurst, this, hb]
  · intro pos index count known decls hb
    cases he : e.begun <;> cases index <;>
      simp [State.buildBurst, State.begunEntry, hb, he, State.knownMask_bit]
  · intro h1 h2; simp [h1, h2]
  · rintro (h1 | h1) <;> simp [h1]
  · simp [Line.drivenAt]

/-- Entering DEFER, the engine turns to its current entry. -/
theorem State.enterDefer_turns (s : State) : s.TurnsToDefer s.enterDefer := by
  refine ⟨fun hw => ?_, fun hq hr hd e rest he => ?_⟩
  · have hg : s.gapEnded = false ∨ s.carrier = true := by
      rw [show s.enterDefer.now = s.now by simp] at hw
      rcases hw with hw | ⟨since, hw, hl⟩ | hw | hw
      · left; simp [State.gapEnded, hw]
      · left; simp only [State.gapEnded, hw]; exact decide_eq_false (show ¬since + 64 ≤ s.now by omega)
      · right; simp [State.carrier, Option.isSome_iff_ne_none, hw]
      · right; simp [State.carrier, hw]
    rw [State.enterDefer_waits hg]; exact ⟨rfl, rfl, rfl⟩
  · have hg : s.gapEnded = true := by
      rw [show s.enterDefer.now = s.now by simp] at hq
      rcases hq with hq | ⟨since, hq, hl⟩
      · simp [State.gapEnded, hq]
      · simp only [State.gapEnded, hq]; exact decide_eq_true (show since + 64 ≤ s.now from hl)
    rw [State.enterDefer_starts hg (by simp [State.carrier, hr, hd])]
    obtain ⟨h1, h2, h3⟩ := State.startAttempt_begins (s := { s with
      tx := { s.tx with engine := s.tx.engine.at .defer }, line := { s.line with wait := .none } }) (t := s.now) he rfl
    refine ⟨?_, h2, h3⟩
    simp only [State.DriveBegins, Engine.at_at] at h1 ⊢
    exact h1

/-! ### This node's announce group (R97, R105, R119) -/

/-- The pages this node forms are its own group. -/
theorem State.groupPages_own (s : State) : s.OwnGroup (groupPages s.ownDeclarations) := by
  refine ⟨groupPages_length _, fun i e he => ?_⟩
  rw [groupPages_length]
  have hi := (List.getElem?_eq_some_iff.1 he).1
  rw [groupPages_length] at hi
  generalize hn : max 1 ((s.ownDeclarations.length + 3) / 4) = n at *
  simp only [groupPages, hn, List.getElem?_map, List.getElem?_range hi, Option.map_some, Option.some.injEq] at he
  refine ⟨groupPos n i, he.symm, ?_, ?_, ?_⟩ <;> simp only [groupPos] <;> (repeat' split) <;> simp <;> omega

/-- Pushing a group moves the last position by its length. -/
theorem foldl_push_eq (l : List TxEntry) : ∀ tx : Tx, l ≠ [] →
    l.foldl Tx.push tx = { tx with entries := tx.entries ++ l, last := (tx.last + l.length) % 8 } := by
  induction l with
  | nil => intro _ h; exact absurd rfl h
  | cons e l ih =>
    intro tx _
    cases l with
    | nil => simp [Tx.push, Config.txPlaces]
    | cons e' l' =>
      rw [List.foldl_cons, ih _ (by simp)]
      simp only [Tx.push, Config.txPlaces, List.append_assoc, List.singleton_append, List.length_cons, Tx.mk.injEq, and_true,
        true_and]
      omega

/-- Queueing a group. -/
theorem State.queueGroup_queued (s : State) : s.GroupQueued s.queueGroup := by
  have hl : (groupPages s.ownDeclarations).length = max 1 ((s.ownDeclarations.length + 3) / 4) := groupPages_length _
  have hne : groupPages s.ownDeclarations ≠ [] := by intro h; rw [h] at hl; simp at hl; omega
  have hd : State.ownDeclarations { s with announce := { s.announce with state := .queued } } = s.ownDeclarations := rfl
  have hf : (groupPages s.ownDeclarations).length ≤ s.tx.free ↔
      s.tx.entries.length + max 1 ((s.ownDeclarations.length + 3) / 4) ≤ 8 := by
    rw [hl]; show _ ≤ 8 - _ ↔ _; omega
  simp only [State.queueGroup, State.joinGroup, hd]
  refine ⟨fun h => ⟨_, s.groupPages_own, ?_⟩, fun h => ?_⟩
  · rw [if_pos (hf.2 h), foldl_push_eq _ _ hne, hl]
    refine ⟨fun hi => ?_, fun hi => ?_⟩
    · rw [State.wake_busy]; exacts [⟨rfl, rfl, rfl⟩, hi]
    · rw [State.wake, if_pos ⟨hi, by simp [hne]⟩]; exact State.enterDefer_turns _
  · rw [if_neg fun hc => by have := hf.1 hc; omega]; exact ⟨rfl, rfl, rfl⟩

/-- A re-announce request is taken by the table of R105. -/
theorem State.requestAnnounce_asked (s : State) : s.AnnounceAsked s.requestAnnounce := by
  simp only [State.requestAnnounce, State.AnnounceAsked, State.listener]
  refine ⟨fun h => ?_, fun h h' => ?_⟩
  · rcases h with h | h
    · rw [if_pos (by simpa using h)]; exact ⟨⟨rfl, rfl⟩, rfl⟩
    · split
      · exact ⟨⟨rfl, rfl⟩, rfl⟩
      · rw [if_neg (by rintro (h' | h'); exacts [h.1 h', h.2 h'])]; exact ⟨⟨rfl, rfl⟩, rfl⟩
  · rw [if_neg (by simpa using h), if_pos h']
    cases hs : s.announce.state with
    | none =>
      cases ho : s.announce.holdOff with
      | none => simp [State.queueGroup_queued]
      | some n => simp
    | queued => simp
    | begun => simp

/-- An event that asks for a re-announce and then takes the vote. -/
theorem State.requestAnnounce_told (s : State) : s.AnnounceTold s.requestAnnounce.revote := by
  have h : s.requestAnnounce = { s with
      tx := s.requestAnnounce.tx, line := s.requestAnnounce.line, announce := s.requestAnnounce.announce } := by
    have := s.requestAnnounce_frame
    generalize s.requestAnnounce = u at *
    cases u; simp_all
  refine ⟨s.requestAnnounce.tx, s.requestAnnounce.line, s.requestAnnounce.announce, ?_⟩
  dsimp only; rw [← h]
  exact ⟨s.requestAnnounce_asked, State.revote_told _⟩

/-! ### FAULT entry (R114, R128, R131) -/

/-- This node off the line is idle, with no wait. -/
theorem State.cutDrive_idle (s : State) : s.cutDrive.line.drive = .idle := by
  simp only [State.cutDrive]; split
  · assumption
  all_goals rfl

theorem State.enterFault_entered {s : State} (h : s.node.state.joined = true) : s.FaultEntered s.enterFault := by
  simp only [State.enterFault, if_pos h]
  generalize hc : (s.enterNode .fault).cutDrive = c
  have hn : c.node = { s.node with state := .fault } := by rw [← hc]; simp [State.enterNode, State.report]
  have hs : c.sender = s.sender := by rw [← hc]; simp
  have ho : c.output = s.output := by rw [← hc]; simp
  have hp : c.port = s.port := by rw [← hc]; simp
  have hd : c.line.drive = .idle := by rw [← hc]; exact State.cutDrive_idle _
  generalize hv : (State.mk ..) = v
  have vn : v.node = { s.node with state := .fault, window := none, leaveDue := false } := by rw [← hv, hn]
  have vs : v.sender = s.sender.silenced := by rw [← hv, hs]
  have vo : v.output = s.output := by rw [← hv, ho]
  have vp : v.port = s.port.endSession := by rw [← hv, hp]
  obtain ⟨h1, h2, h3, h4⟩ := v.revote_output
  have hown : v.revote.output.ownRequest = .park := by
    rw [h1]; exact State.formOwnRequest_park (.inr (.inr (by rw [vn])))
  have heff : v.revote.output.effective = .park := by
    apply Mode.park_of_le
    have := State.ownRequest_le v.revote
    rw [hown] at this
    rw [v.revote_voted.2]; exact this
  obtain ⟨k1, k2, k3, k4⟩ := State.revote_silent (s := v) (by rw [vs]; rfl)
  have hst := v.revote_stage
  rw [heff] at hst
  refine ⟨by simp [vn], by rw [k1, ← hv], by rw [k2, ← hv]; exact hd, by rw [k2, ← hv], by rw [k4, vs]; rfl,
    by rw [k3, ← hv], by rw [k3, ← hv], by rw [k3, ← hv], hown, heff, v.revote_voted, by rw [h2, vo],
    fun hl => ?_, fun hr => ?_, by rw [h3, vo], fun hb => ?_, fun hb hb' => ?_⟩
  · exact absurd (hst.1 (.inl hl)).1 (by decide)
  · exact absurd (hst.1 (.inr hr)).1 (by decide)
  · simp only [State.revote_frame, vp, Port.endSession]; rcases hb with hb | hb <;> simp [hb]
  · simp only [State.revote_frame, vp, Port.endSession]

end Sys2Proof.Machine
end

