-- ==== Sys2Proof/Laws/Line.lean ====
section
/-! SUPPORT. What stands on the line: the bits of a burst, what a receiver collects of a run (R137, R145), and the line after this
node has left it (R138). -/

namespace Sys2Proof.Machine

/-! ### Bits and bytes (R137) -/

@[simp] theorem byteBits_length (b : Byte) : (byteBits b).length = 8 := rfl

/-- Eight bits in the order of the line are the byte they were made of. -/
theorem byteOfBits_byteBits (b : Byte) : byteOfBits (byteBits b) = b := by
  revert b; decide +kernel

theorem flatMap_byteBits_length (l : List Byte) : (l.flatMap byteBits).length = 8 * l.length := by
  induction l with
  | nil => rfl
  | cons b l ih => simp only [List.flatMap_cons, List.length_append, byteBits_length, ih, List.length_cons]; omega

theorem wholeBytes_short {l : List Bool} (h : l.length < 8) : wholeBytes l = [] := by
  unfold wholeBytes; split
  · simp at h; omega
  · rfl

/-- The whole bytes of a run of bytes are those bytes, whatever bits are left over at the end. -/
theorem wholeBytes_flatMap (l : List Byte) {tail : List Bool} (h : tail.length < 8) :
    wholeBytes (l.flatMap byteBits ++ tail) = l := by
  induction l with
  | nil => exact wholeBytes_short h
  | cons b l ih =>
    have : wholeBytes (byteBits b ++ (l.flatMap byteBits ++ tail)) =
        byteOfBits (byteBits b) :: wholeBytes (l.flatMap byteBits ++ tail) := rfl
    rw [List.flatMap_cons, List.append_assoc, this, ih, byteOfBits_byteBits]

/-! ### The search for the start byte (R145) -/

/-- The search ends at the first place where the start byte stands. -/
theorem afterStart_first (lead after : List Bool)
    (h : ∀ i, i < lead.length → ((lead ++ byteBits startByte ++ after).drop i).take 8 ≠ byteBits startByte) :
    afterStart (lead ++ byteBits startByte ++ after) = some after := by
  induction lead with
  | nil =>
    show afterStart (byteBits startByte ++ after) = _
    rw [show byteBits startByte ++ after = true :: ((byteBits startByte).tail ++ after) from rfl, afterStart]
    exact if_pos rfl
  | cons b lead ih =>
    have h0 := h 0 (by simp)
    simp only [List.cons_append, List.append_assoc, List.drop_zero] at h0 ⊢
    rw [afterStart, if_neg h0]
    have := ih (fun i hi => by have := h (i + 1) (by simp; omega); simpa using this)
    simpa using this

/-- Where the start byte stands nowhere, the search finds nothing. -/
theorem afterStart_none {bits : List Bool} (h : ∀ i, (bits.drop i).take 8 ≠ byteBits startByte) :
    afterStart bits = none := by
  induction bits with
  | nil => rfl
  | cons b bits ih =>
    have h0 : ¬(b :: bits).take 8 = byteBits startByte := h 0
    rw [afterStart, if_neg h0]
    exact ih fun i => h (i + 1)

/-- What is collected of a run in which the start byte has been found. -/
theorem Run.collect_found {r : Run} {bits after : List Bool} (h : afterStart bits = some after) :
    r.collect bits =
      { r with bytes := some ((wholeBytes after).take 54), aborted := decide (54 < (wholeBytes after).length) } := by
  simp only [Run.collect, h]; rfl

/-! ### A burst on the line -/

theorem Burst.bytes_length (b : Burst) : b.bytes.length = 6 + b.payload.bytes.length := by
  simp [Burst.bytes, Burst.header, bytes16]; omega

theorem Burst.lineBits_eq (b : Burst) : b.lineBits = 8 * (11 + b.payload.bytes.length) := by
  simp [Burst.lineBits, Burst.sent, preamble, Burst.bytes_length]; omega

theorem Burst.onLine_length (b : Burst) : b.onLine.length = b.lineBits := flatMap_byteBits_length _

/-- A receiver collects of a burst on the line the bytes after the start byte. -/
theorem Burst.collect_onLine (b : Burst) (r : Run) (h : b.payload.bytes.length ≤ 48) :
    r.collect b.onLine = { r with bytes := some b.bytes, aborted := false } := by
  have h1 : b.onLine = preamble.flatMap byteBits ++ byteBits startByte ++ b.bytes.flatMap byteBits := by
    simp [Burst.onLine, Burst.sent]
  have h2 : afterStart b.onLine = some (b.bytes.flatMap byteBits) := by
    rw [h1]; apply afterStart_first
    intro i hi
    have hi : i < 32 := hi
    have first : ∀ i, i < 32 →
        ((preamble.flatMap byteBits ++ byteBits startByte).drop i).take 8 ≠ byteBits startByte := by decide
    have hl : (preamble.flatMap byteBits ++ byteBits startByte).length = 40 := rfl
    rw [List.drop_append_of_le_length (by omega), List.take_append_of_le_length (by rw [List.length_drop]; omega)]
    exact first i hi
  have h3 := wholeBytes_flatMap b.bytes (tail := []) (by decide)
  rw [List.append_nil] at h3
  have h4 := b.bytes_length
  rw [Run.collect_found h2, h3, List.take_of_length_le (by omega), decide_eq_false (by omega)]

end Sys2Proof.Machine
end

