-- ==== Sys2Proof/Laws/Formats.lean ====
section
/-! SUPPORT. What the format checks accept: a body judged good reads, field by field, as the burst it is judged to be (R145, R148 to
R154). -/

namespace Sys2Proof.Machine

theorem parseDeclarations_reads : ∀ (l : List Byte) (ds : List Declaration), parseDeclarations l = some ds →
    l.length = 2 * ds.length ∧ ∀ (i : Nat) (d : Declaration), ds[i]? = some d →
      (l.getD (2 * i) 0).toNat = d.1 ∧ d.1 ≤ 15 ∧ (l.getD (2 * i + 1) 0).toNat = d.2
  | [], ds, h => by simp [parseDeclarations] at h; subst h; simp
  | [_], ds, h => by simp [parseDeclarations] at h
  | c :: r :: rest, ds, h => by
    simp only [parseDeclarations] at h
    split at h
    · rename_i hc
      simp only [Option.map_eq_some_iff] at h
      obtain ⟨ds', h', rfl⟩ := h
      obtain ⟨ih1, ih2⟩ := parseDeclarations_reads rest ds' h'
      refine ⟨by simp [ih1]; omega, fun i d hd => ?_⟩
      cases i with
      | zero => simp at hd; subst hd; simpa using hc
      | succ i => exact ih2 i d (by simpa using hd)
    · cases h

theorem parseCounted_reads {l : List Byte} {ds : List Declaration} (h : parseCounted l = some ds) : DeclarationsRead l ds := by
  cases l with
  | nil => simp [parseCounted] at h
  | cons n rest =>
    simp only [parseCounted] at h
    split at h
    · rename_i hc
      obtain ⟨h1, h2⟩ := parseDeclarations_reads rest ds h
      refine ⟨by omega, by simp [h1]; omega, by simp; omega, fun i d hd => ?_⟩
      have := h2 i d hd
      rw [show 1 + 2 * i = 2 * i + 1 by omega, show 2 + 2 * i = 2 * i + 1 + 1 by omega]
      simpa using this
    · cases h

theorem parseLevel_reads : ∀ (l : List Byte) (floor : Nat) (ps : List (Nat × Int)), parseLevel floor l = some ps →
    l.length = 3 * ps.length ∧ (ps.Pairwise fun a b => a.1 < b.1) ∧ (∀ p ∈ ps, floor ≤ p.1) ∧
      ∀ (i : Nat) (p : Nat × Int), ps[i]? = some p → (l.getD (3 * i) 0).toNat = p.1 ∧ p.1 ≤ 15 ∧
        (l.getD (3 * i + 1) 0 ++ l.getD (3 * i + 2) 0 : BitVec 16).toInt = p.2
  | [], _, ps, h => by simp [parseLevel] at h; subst h; simp
  | [_], _, ps, h => by simp [parseLevel] at h
  | [_, _], _, ps, h => by simp [parseLevel] at h
  | c :: hi :: lo :: rest, floor, ps, h => by
    simp only [parseLevel] at h
    split at h
    · rename_i hc
      simp only [Option.map_eq_some_iff] at h
      obtain ⟨ps', h', rfl⟩ := h
      obtain ⟨ih1, ih2, ih3, ih4⟩ := parseLevel_reads rest _ ps' h'
      refine ⟨by simp [ih1]; omega, List.pairwise_cons.2 ⟨fun p hp => ih3 p hp, ih2⟩, ?_, fun i p hp => ?_⟩
      · rintro p (_ | ⟨_, hp⟩)
        · exact hc.1
        · have := ih3 p hp; omega
      · cases i with
        | zero => simp at hp; subst hp; exact ⟨rfl, hc.2, rfl⟩
        | succ i => exact ih4 i p (by simpa using hp)
    · cases h

theorem parseItems_reads : ∀ (l : List Byte) (is : List TriggerItem), parseItems l = some is →
    l.length = 5 * is.length ∧ ∀ (i : Nat) (item : TriggerItem), is[i]? = some item →
      item = TriggerItem.read fun k => l.getD (5 * i + k) 0
  | [], is, h => by simp [parseItems] at h; subst h; simp
  | [_], is, h | [_, _], is, h | [_, _, _], is, h | [_, _, _, _], is, h => by simp [parseItems] at h
  | b0 :: b1 :: b2 :: b3 :: b4 :: rest, is, h => by
    simp only [parseItems, Option.map_eq_some_iff] at h
    obtain ⟨is', h', rfl⟩ := h
    obtain ⟨ih1, ih2⟩ := parseItems_reads rest is' h'
    refine ⟨by simp [ih1]; omega, fun i item hi => ?_⟩
    cases i with
    | zero => simp at hi; subst hi; simp [parseItem, TriggerItem.read, BitVec.msb_eq_getLsbD_last]
    | succ i =>
      rw [ih2 i item (by simpa using hi)]; congr 1; funext k
      rw [show 5 * (i + 1) + k = 5 * i + k + 1 + 1 + 1 + 1 + 1 by omega]; rfl

theorem parseAnnounce_reads {l : List Byte} {p : Payload} (h : parseAnnounce l = some p) : p.kind = 1 ∧ p.ReadFrom l := by
  cases l with
  | nil => simp [parseAnnounce] at h
  | cons pb rest =>
    simp only [parseAnnounce] at h
    split at h
    · cases h
    · split at h
      · split at h
        · simp only [Option.map_eq_some_iff] at h
          obtain ⟨ds, h', rfl⟩ := h
          exact ⟨rfl, by simp; omega, by omega, by omega, rfl, rfl, parseCounted_reads h'⟩
        · cases h
      · simp only [Option.map_eq_some_iff] at h
        obtain ⟨ds, h', rfl⟩ := h
        exact ⟨rfl, by simp; omega, by omega, by omega, by omega, parseCounted_reads h'⟩

theorem parsePayload_reads {kind : Nat} {l : List Byte} {p : Payload} (h : parsePayload kind l = some p) :
    p.kind = kind ∧ p.ReadFrom l := by
  simp only [parsePayload] at h
  split at h
  · exact parseAnnounce_reads h
  · simp only [Option.map_eq_some_iff] at h
    obtain ⟨ps, h', rfl⟩ := h
    obtain ⟨h1, h2, -, h4⟩ := parseLevel_reads l 0 ps h'
    exact ⟨rfl, h1, h2, h4⟩
  · split at h
    · cases h
    · simp only [Option.map_eq_some_iff] at h
      obtain ⟨is, h', rfl⟩ := h
      obtain ⟨h1, h2⟩ := parseItems_reads l is h'
      exact ⟨rfl, by omega, by omega, h1, h2⟩
  · split at h
    · rename_i hl
      cases h; exact ⟨rfl, List.length_eq_zero_iff.1 hl⟩
    · cases h
  · cases h

/-- A body that is judged good reads as the burst it is judged to be. -/
theorem judgeBody_reads {n : Nat} {h0 h1 h2 h3 : Byte} {payload : List Byte} {b : Burst}
    (h : judgeBody n (h0 :: h1 :: h2 :: h3 :: payload) = .good b) : b.ReadFrom h0 h1 h2 h3 payload := by
  simp only [judgeBody] at h
  split at h
  · cases h
  · split at h
    · cases h
    · split at h
      · rename_i request p hm hp
        cases h
        obtain ⟨hk, hr⟩ := parsePayload_reads hp
        refine ⟨by simp only [hk]; omega, by simp only; omega, rfl, ?_, rfl, by omega, hr⟩
        revert hm
        generalize h2.toNat / 64 = m
        intro hm
        match m, hm with
        | 0, hm => cases hm; rfl
        | 1, hm => cases hm; rfl
        | 2, hm => cases hm; rfl
      · cases h

end Sys2Proof.Machine
end

