-- ==== Sys2Proof/Laws/PerInstr.lean ====
section
/-! SUPPORT. Families of statements made one command at a time: the command byte each local port transaction begins with. -/

namespace Sys2Proof.Laws.CommandByte

/-- The transaction of a command begins with one of the command bytes of R165, but for UNKNOWN_COMMAND, whose byte is none of
them (R155, R165). -/
def Statement (i : Instr) : Prop :=
  ∀ code rest, i.wellFormed = true → encodeTransaction i = some (code :: rest) →
    (commandCodes.contains code.toNat = true ↔ ∀ c, i ≠ .unknownCommand c)

theorem powerOnReset (t : Nat) : Statement (.powerOnReset t) := by
  intro c r _ h; simp [encodeTransaction] at h

theorem haltNChange (t : Nat) (low : Bool) : Statement (.haltNChange t low) := by
  intro c r _ h; simp [encodeTransaction] at h

theorem unknownCommand (code : Byte) : Statement (.unknownCommand code) := by
  intro c rest hw h
  obtain ⟨rfl, -⟩ : code = c ∧ _ := by simpa [encodeTransaction] using h
  have hw : commandCodes.contains code.toNat = false := by simpa [Instr.wellFormed] using hw
  rw [hw]; simp

theorem transactionEnd (clocked : Nat) : Statement (.transactionEnd clocked) := by
  intro c r _ h; simp [encodeTransaction] at h

theorem setStation (station role : Byte) (seed : Word16) : Statement (.setStation station role seed) := by
  intro c r _ h
  obtain ⟨rfl, -⟩ := List.cons.inj (Option.some.inj h)
  simp [commandCodes]

theorem setTiming (period levelInterval holdAfter refresh : Byte) (silence forget : Word16) (stale window persist : Byte) :
    Statement (.setTiming period levelInterval holdAfter refresh silence forget stale window persist) := by
  intro c r _ h
  obtain ⟨rfl, -⟩ := List.cons.inj (Option.some.inj h)
  simp [commandCodes]

theorem defineChannel (channel policy produce rank : Byte) (deadband fadeStep : Word16) :
    Statement (.defineChannel channel policy produce rank deadband fadeStep) := by
  intro c r _ h
  obtain ⟨rfl, -⟩ := List.cons.inj (Option.some.inj h)
  simp [commandCodes]

theorem defineAxis (axis tapCount : Byte) (slot0 slot1 slot2 slot3 : TapSlot)
    (slew clip warn hysteresis hardLimit : Word16) (hardCount : Byte) :
    Statement (.defineAxis axis tapCount slot0 slot1 slot2 slot3 slew clip warn hysteresis hardLimit hardCount) := by
  intro c r _ h
  obtain ⟨rfl, -⟩ := List.cons.inj (Option.some.inj h)
  simp [commandCodes]

theorem storeProfile (profile stretch endMode : Byte) (length : Word16) (samples : List Word16) :
    Statement (.storeProfile profile stretch endMode length samples) := by
  intro c r _ h
  obtain ⟨rfl, -⟩ := List.cons.inj (Option.some.inj h)
  simp [commandCodes]

theorem profileWriteComplete : Statement .profileWriteComplete := by
  intro c r _ h; simp [encodeTransaction] at h

theorem clearProfiles : Statement .clearProfiles := by
  intro c r _ h
  obtain ⟨rfl, -⟩ := List.cons.inj (Option.some.inj h)
  simp [commandCodes]

theorem setStage (ease park rise : Word16) (roles : Byte) : Statement (.setStage ease park rise roles) := by
  intro c r _ h
  obtain ⟨rfl, -⟩ := List.cons.inj (Option.some.inj h)
  simp [commandCodes]

theorem routeAlerts (cls route : Byte) : Statement (.routeAlerts cls route) := by
  intro c r _ h
  obtain ⟨rfl, -⟩ := List.cons.inj (Option.some.inj h)
  simp [commandCodes]

theorem join (t : Nat) : Statement (.join t) := by
  intro c r _ h
  obtain ⟨rfl, -⟩ := List.cons.inj (Option.some.inj h)
  simp [commandCodes]

theorem leave (t : Nat) : Statement (.leave t) := by
  intro c r _ h
  obtain ⟨rfl, -⟩ := List.cons.inj (Option.some.inj h)
  simp [commandCodes]

theorem restart (t : Nat) : Statement (.restart t) := by
  intro c r _ h
  obtain ⟨rfl, -⟩ := List.cons.inj (Option.some.inj h)
  simp [commandCodes]

theorem quiet : Statement .quiet := by
  intro c r _ h
  obtain ⟨rfl, -⟩ := List.cons.inj (Option.some.inj h)
  simp [commandCodes]

theorem speak (t : Nat) : Statement (.speak t) := by
  intro c r _ h
  obtain ⟨rfl, -⟩ := List.cons.inj (Option.some.inj h)
  simp [commandCodes]

theorem post (count : Byte) (pairs : List (Byte × Word16)) : Statement (.post count pairs) := by
  intro c r _ h
  obtain ⟨rfl, -⟩ := List.cons.inj (Option.some.inj h)
  simp [commandCodes]

theorem fire (t : Nat) (channel event profile amplitude priority lead : Byte) :
    Statement (.fire t channel event profile amplitude priority lead) := by
  intro c r _ h
  obtain ⟨rfl, -⟩ := List.cons.inj (Option.some.inj h)
  simp [commandCodes]

theorem cancel (t : Nat) (event : Byte) : Statement (.cancel t event) := by
  intro c r _ h
  obtain ⟨rfl, -⟩ := List.cons.inj (Option.some.inj h)
  simp [commandCodes]

theorem askMode (t : Nat) (mode : Byte) : Statement (.askMode t mode) := by
  intro c r _ h
  obtain ⟨rfl, -⟩ := List.cons.inj (Option.some.inj h)
  simp [commandCodes]

theorem status : Statement .status := by
  intro c r _ h
  obtain ⟨rfl, -⟩ := List.cons.inj (Option.some.inj h)
  simp [commandCodes]

theorem takeOutput : Statement .takeOutput := by
  intro c r _ h
  obtain ⟨rfl, -⟩ := List.cons.inj (Option.some.inj h)
  simp [commandCodes]

theorem takeChannels : Statement .takeChannels := by
  intro c r _ h
  obtain ⟨rfl, -⟩ := List.cons.inj (Option.some.inj h)
  simp [commandCodes]

theorem peer (station : Byte) : Statement (.peer station) := by
  intro c r _ h
  obtain ⟨rfl, -⟩ := List.cons.inj (Option.some.inj h)
  simp [commandCodes]

theorem takeEvents : Statement .takeEvents := by
  intro c r _ h
  obtain ⟨rfl, -⟩ := List.cons.inj (Option.some.inj h)
  simp [commandCodes]

theorem outputPeriodExpiry (order : HandOverOrder) (whole : Bool) : Statement (.outputPeriodExpiry order whole) := by
  intro c r _ h; simp [encodeTransaction] at h

theorem silenceTimerExpiry (station : Nat) : Statement (.silenceTimerExpiry station) := by
  intro c r _ h; simp [encodeTransaction] at h

theorem forgetTimerExpiry (station : Nat) : Statement (.forgetTimerExpiry station) := by
  intro c r _ h; simp [encodeTransaction] at h

theorem assemblyTimeLimit (station : Nat) : Statement (.assemblyTimeLimit station) := by
  intro c r _ h; simp [encodeTransaction] at h

theorem announceHoldOffExpiry : Statement .announceHoldOffExpiry := by
  intro c r _ h; simp [encodeTransaction] at h

theorem joinWindowExpiry : Statement .joinWindowExpiry := by
  intro c r _ h; simp [encodeTransaction] at h

theorem levelIntervalExpiry : Statement .levelIntervalExpiry := by
  intro c r _ h; simp [encodeTransaction] at h

theorem refreshTimerExpiry : Statement .refreshTimerExpiry := by
  intro c r _ h; simp [encodeTransaction] at h

theorem staleDeadline (index : Nat) : Statement (.staleDeadline index) := by
  intro c r _ h; simp [encodeTransaction] at h

theorem carrierStart (t : Nat) : Statement (.carrierStart t) := by
  intro c r _ h; simp [encodeTransaction] at h

theorem gapEnd : Statement .gapEnd := by
  intro c r _ h; simp [encodeTransaction] at h

theorem echoCheck (heard : Bool) : Statement (.echoCheck heard) := by
  intro c r _ h; simp [encodeTransaction] at h

theorem collision (bit : Nat) : Statement (.collision bit) := by
  intro c r _ h; simp [encodeTransaction] at h

theorem jamEnd : Statement .jamEnd := by
  intro c r _ h; simp [encodeTransaction] at h

theorem backoffWaitEnd : Statement .backoffWaitEnd := by
  intro c r _ h; simp [encodeTransaction] at h

theorem attemptCompletes : Statement .attemptCompletes := by
  intro c r _ h; simp [encodeTransaction] at h

theorem leaveCompletion : Statement .leaveCompletion := by
  intro c r _ h; simp [encodeTransaction] at h

theorem runEnd (t : Nat) (bits : List Bool) : Statement (.runEnd t bits) := by
  intro c r _ h; simp [encodeTransaction] at h

theorem applyBurst : Statement .applyBurst := by
  intro c r _ h; simp [encodeTransaction] at h

theorem rstNFall : Statement .rstNFall := by
  intro c r _ h; simp [encodeTransaction] at h

end Sys2Proof.Laws.CommandByte
end

