-- ==== Sys2Proof/Laws/Tables.lean ====
section
/-! SUPPORT. What the operations on the Source Table, the Peer Table and the Player Bank come to: a declared set replaced or
discarded, a LEVEL's pairs applied, a player chosen, FAULT entered (R5 to R8, R31, R100, R114). -/

namespace Sys2Proof.Machine

/-! ### Declared sets (R5 to R7, R100) -/

theorem rankIn_isSome (ds : List Declaration) (c : Nat) : (rankIn ds c).isSome = ds.any fun d => d.1 == c := by
  rw [Bool.eq_iff_iff]; simp [rankIn]

/-- A station's declared set is discarded: its EMPTY entries go, the others fade undeclared (R6, R7). -/
theorem redeclare_nil (x : Nat) (l : List SourceEntry) : redeclare x [] l = l.filterMap fun e =>
    if e.station = x then e.undeclare else some e := by
  simp only [redeclare, List.filter_nil, List.map_nil, List.append_nil]
  congr 1

theorem filterMap_keeps {α : Type} (f : α → Option α) (l : List α) (h : ∀ a ∈ l, f a = some a) : l.filterMap f = l := by
  induction l with
  | nil => rfl
  | cons a l ih => rw [List.filterMap_cons, h a (by simp)]; simp only [ih fun b hb => h b (by simp [hb])]

/-- A station with no entry gets an EMPTY one for each declared channel (R5). -/
theorem redeclare_new (x : Nat) (d : List Declaration) (t : List SourceEntry) (h : ∀ e ∈ t, e.station ≠ x) :
    redeclare x d t = t ++ d.map (SourceEntry.fresh x) := by
  simp only [redeclare]
  congr 1
  · exact filterMap_keeps _ t fun e he => if_neg (h e he)
  · congr 1; rw [List.filter_eq_self]; intro a _
    simp [SourceEntry.keyed]; intro e he h'; exact absurd h' (h e he)

theorem find_declared (l : List Declaration) (hp : l.Pairwise fun a b => a.1 < b.1) (c r : Nat) :
    l.find? (·.1 == c) = some (c, r) ↔ (c, r) ∈ l := by
  constructor
  · exact List.mem_of_find?_eq_some
  · induction l with
    | nil => simp
    | cons q l ih =>
      rw [List.pairwise_cons] at hp
      intro h
      rcases List.mem_cons.1 h with rfl | h
      · simp
      · have := hp.1 _ h
        rw [List.find?_cons_of_neg (by simp; simp at this; omega)]
        exact ih hp.2 h

/-! ### The pairs of a LEVEL (R8, R134) -/

theorem sentPairs_other (pairs : List (Nat × Int)) (c : Nat) (h : ∀ p ∈ pairs, p.1 ≠ c) :
    ∀ l, (sentPairs pairs l).getD c none = l.getD c none := by
  induction pairs with
  | nil => intro l; rfl
  | cons p ps ih =>
    intro l
    have := ih (fun q hq => h q (List.mem_cons_of_mem _ hq)) (l.set p.1 (some (takeCue p.2)))
    simp only [sentPairs, List.foldl_cons] at this ⊢
    rw [this, getD_set_ne]; exact (h p (by simp)).symm

/-- One record takes the undeclared pairs as counts, and the table takes the declared ones as values (R8). -/
theorem applyPairs_fold (x : Nat) (h1 : 1 ≤ x) (h2 : x ≤ 15) (declared : Nat → Bool) (pairs : List (Nat × Int)) :
    ∀ t : State, t.peers.length = 15 → (∀ c, declared c = (t.peerAt x).declared.any fun d => d.1 == c) →
    (pairs.foldl (State.applyPair x) t).peerAt x = { t.peerAt x with
      undeclared := (pairs.filter fun p => !declared p.1).foldl (fun n _ => min 65535 (n + 1)) (t.peerAt x).undeclared } ∧
    (∀ y, y ≠ x → (pairs.foldl (State.applyPair x) t).peerAt y = t.peerAt y) ∧
    (pairs.foldl (State.applyPair x) t).sources = pairs.foldl
      (fun tbl p => if declared p.1 then setValid x p.1 p.2 t.merge.periodCount tbl else tbl) t.sources := by
  induction pairs with
  | nil => intro t _ _; exact ⟨rfl, fun _ _ => rfl, rfl⟩
  | cons p ps ih =>
    intro t hl hD
    by_cases h : declared p.1 = true
    · have hs : State.applyPair x t p = { t with sources := setValid x p.1 p.2 t.merge.periodCount t.sources } := by
        simp only [State.applyPair]; rw [if_pos (by rw [rankIn_isSome, ← hD]; exact h)]
      have hp : ∀ y, (State.applyPair x t p).peerAt y = t.peerAt y := by
        intro y; rw [hs]; exact State.peerAt_congr rfl y
      obtain ⟨k1, k2, k3⟩ := ih (State.applyPair x t p) (by rw [hs]; exact hl) (by intro c; rw [hp]; exact hD c)
      refine ⟨?_, fun y hy => by rw [List.foldl_cons, k2 y hy, hp], ?_⟩
      · rw [List.foldl_cons, k1, hp]; simp [h]
      · rw [List.foldl_cons, k3, List.foldl_cons, if_pos h, hs]
    · have hs : State.applyPair x t p = t.countUndeclared x := by
        simp only [State.applyPair]; rw [if_neg (by rw [rankIn_isSome, ← hD]; exact h)]
      obtain ⟨m1, m2⟩ := State.mapPeer_at t x
        (fun p => { p with undeclared := satAdd Config.counterMax p.undeclared 1 }) hl h1 h2
      have hp : (State.applyPair x t p).peerAt x =
          { t.peerAt x with undeclared := min 65535 ((t.peerAt x).undeclared + 1) } := by rw [hs]; exact m1
      obtain ⟨k1, k2, k3⟩ := ih (State.applyPair x t p)
        (by rw [hs, State.countUndeclared, State.mapPeer_length, hl]) (by intro c; rw [hp]; exact hD c)
      refine ⟨?_, fun y hy => ?_, ?_⟩
      · rw [List.foldl_cons, k1, hp]; simp [h]
      · rw [List.foldl_cons, k2 y hy, hs]; exact m2 y hy
      · rw [List.foldl_cons, k3, List.foldl_cons, if_neg h, hs]; simp

/-! ### Allocation (R31) -/

/-- The lowest-numbered FREE player. -/
theorem firstFree_spec (l : List (Option Player)) : ∀ n,
    (∀ k, firstFree n l = some k → n ≤ k ∧ l[k - n]? = some none ∧ ∀ m, m < k - n → l[m]? ≠ some none) ∧
    (firstFree n l = none ↔ none ∉ l) := by
  induction l with
  | nil => intro n; simp [firstFree]
  | cons a l ih =>
    intro n
    cases a with
    | none => refine ⟨?_, by simp [firstFree]⟩; intro k hk; simp [firstFree] at hk; subst hk; simp
    | some p =>
      obtain ⟨i1, i2⟩ := ih (n + 1)
      refine ⟨?_, by simp [firstFree, i2]⟩
      intro k hk; simp only [firstFree] at hk
      obtain ⟨a1, a2, a3⟩ := i1 k hk
      obtain ⟨j, rfl⟩ : ∃ j, k = n + 1 + j := ⟨k - (n + 1), by omega⟩
      simp only [Nat.add_sub_cancel_left] at a2 a3
      rw [show n + 1 + j - n = j + 1 by omega]
      refine ⟨by omega, by simpa using a2, fun m hm => ?_⟩
      cases m with
      | zero => simp
      | succ m => simpa using a3 m (by omega)

/-! ### The best of a channel's entries (R16, R17) -/

/-- The entry a policy picks is one no other beats, where `beats` orders the entries. -/
theorem bestBy_spec (beats : Voice → Voice → Bool)
    (ht : ∀ a b c, beats a b = false → beats b c = false → beats a c = false)
    (ha : ∀ a b, beats a b = true → beats b a = false) :
    ∀ l : List Voice, l ≠ [] → ∃ v ∈ l, bestBy beats l = some v ∧ ∀ w ∈ l, beats w v = false := by
  have hirr : ∀ w, beats w w = false := by
    intro w; cases h : beats w w with
    | false => rfl
    | true => have := ha _ _ h; rw [h] at this; cases this
  intro l
  induction l with
  | nil => simp
  | cons a l ih =>
    intro _
    by_cases hl : l = []
    · subst hl; refine ⟨a, by simp, rfl, ?_⟩
      intro w hw; simp at hw; subst hw; exact hirr w
    · obtain ⟨v, hv, hb, hw⟩ := ih hl
      simp only [bestBy, hb]
      by_cases h : beats v a = true
      · refine ⟨v, by simp [hv], by simp [h], ?_⟩
        intro w hw'; rcases List.mem_cons.1 hw' with rfl | hw'
        · exact ha _ _ h
        · exact hw w hw'
      · refine ⟨a, by simp, by simp [h], ?_⟩
        intro w hw'; rcases List.mem_cons.1 hw' with rfl | hw'
        · exact hirr w
        · exact ht _ _ _ (hw w hw') (by simpa using h)

/-! ### FAULT (R114) -/

/-- FAULT entry from a joined state: the engine stops, a drive is cut, the Level Sender falls silent, and the vote is taken. -/
theorem State.enterFault_spec {s : State}
    (h : s.node.state = .joining ∨ s.node.state = .active ∨ s.node.state = .leaving) :
    s.enterFault.node.state = .fault ∧ s.enterFault.tx = { s.tx with engine := .stopped } ∧
    s.enterFault.sender.state = .silent ∧ s.enterFault.line.wait = .none ∧
    s.enterFault.line.drive = s.cutDrive.line.drive ∧ s.enterFault.Voted ∧
    s.enterFault.output.ownRequest = .park ∧ s.enterFault.output.effective = .park ∧
    (s.events.queue.length < 32 → s.events.queue ++ [
      { kind := .nodeState, count := s.merge.periodCount, detail := some 4,
        value := some (s.node.state.code : Int) }] <+: s.enterFault.events.queue) := by
  have hj : s.node.state.joined = true := by rcases h with h | h | h <;> rw [h] <;> rfl
  obtain ⟨b, hb⟩ : ∃ b : State, b = (let s1 := (s.enterNode .fault).cutDrive; { s1 with
      node := { s1.node with window := none, leaveDue := false }
      tx := { s1.tx with engine := .stopped }
      line := { s1.line with wait := .none }
      sender := s1.sender.silenced
      announce := { s1.announce with holdOff := none, remembered := false, waiting := false }
      port := s1.port.endSession }) := ⟨_, rfl⟩
  have e : s.enterFault = b.revote := by simp only [State.enterFault]; rw [if_pos hj, hb]
  rw [e]
  obtain ⟨v1, v2, v3, v4⟩ := State.revote_silent (s := b) (by rw [hb]; rfl)
  have hv := b.revote_voted
  have hbn : b.node.state = .fault := by simp [hb]
  have hp : b.revote.output.ownRequest = .park := by
    rw [b.revote_output.1]; exact State.formOwnRequest_park (.inr (.inr hbn))
  refine ⟨by simp [hbn], by rw [v1, hb]; simp, by rw [v4, hb]; rfl, by rw [v2, hb], ?_, hv, hp, ?_, ?_⟩
  · rw [v2, hb]
    simp only [State.cutDrive]
    simp only [State.enterNode_frame]
    split <;> simp
  · apply Mode.park_of_le; rw [hv.2, ← hp]; exact State.ownRequest_le _
  · intro hq
    refine List.IsPrefix.trans ?_ (State.revote_prefix b)
    rw [hb]; simp only [State.cutDrive_frame, State.enterNode]
    rw [State.report_room (by exact hq)]; exact List.prefix_refl _

/-! ### A pass ends (R11, R48, R49) -/

@[simp] theorem State.orHold_of_none {s : State} (hp : s.merge.pass = none) (h : HeldChange) (now : State) :
    s.orHold h now = now := by simp [State.orHold, hp]

/-- In a pass a change to the tables is put behind those held, and nothing else changes. -/
theorem State.orHold_of_pass {s : State} (hp : s.merge.pass ≠ none) (h : HeldChange) (now : State) :
    s.orHold h now = { s with merge := { s.merge with held := s.merge.held ++ [h] } } := by
  simp [State.orHold, Option.isSome_iff_ne_none, hp]

/-- A change held behind those of the pass in progress is made after all that ending the pass does without it (R11). -/
theorem State.finishPass_held {s : State} (hp : s.merge.pass ≠ none) (h : HeldChange) :
    State.finishPass { s with merge := { s.merge with held := s.merge.held ++ [h] } } = s.finishPass.makeHeld h := by
  obtain ⟨p, hp⟩ := Option.ne_none_iff_exists'.1 hp
  simp only [State.finishPass, hp, List.foldl_append, List.foldl_cons, List.foldl_nil]

/-- With no entry of this node in the table, its own entries join at the end, each EMPTY (R4). -/
theorem State.createOwnEntries_new {s : State} (h : ∀ e ∈ s.sources, e.station ≠ s.cfg.station) :
    s.createOwnEntries =
      { s with sources := s.sources ++ s.ownDeclarations.map (SourceEntry.fresh s.cfg.station) } := by
  simp only [State.createOwnEntries, redeclare_new _ _ _ h]

/-- No held change touches the pass. -/
@[simp] theorem State.makeHeld_pass (s : State) (h : HeldChange) : (s.makeHeld h).merge.pass = s.merge.pass := by
  simp only [State.makeHeld]; (repeat' split) <;> simp [State.completeLeave]

/-- A pass that ends leaves no pass in progress (R48). -/
theorem State.finishPass_pass (s : State) : s.finishPass.merge.pass = none := by
  have fold : ∀ (l : List HeldChange) (s : State), (l.foldl State.makeHeld s).merge.pass = s.merge.pass := by
    intro l; induction l <;> simp_all
  simp only [State.finishPass]; split
  · assumption
  · simp only [fold, State.handOver_frame]; rfl

end Sys2Proof.Machine
end

