-- ==== Sys2Proof/Tests/Slice0.lean ====
section
/-! SUPPORT. Tests: the WellFormed smoke, the manual's worked figures, and for each statement with hypotheses a state and
operands that meet them. Every expected value of the first two parts is a figure of spec/, named in the test's comment. -/

namespace Sys2Proof.Tests

open Machine

/-! ### WellFormed refuses -/

theorem test_refuses_known_code : (Instr.unknownCommand 0x30).wellFormed = false := by decide
theorem test_refuses_missing_sample : (Instr.storeProfile 0 1 0 2 [7]).wellFormed = false := by decide
theorem test_refuses_extra_pair : (Instr.post 1 [(0, 1), (1, 2)]).wellFormed = false := by decide
theorem test_refuses_silence_station : (Instr.silenceTimerExpiry 0).wellFormed = false := by decide
theorem test_refuses_forget_station : (Instr.forgetTimerExpiry 16).wellFormed = false := by decide
theorem test_refuses_assembly_station : (Instr.assemblyTimeLimit 16).wellFormed = false := by decide
theorem test_refuses_stale_place : (Instr.staleDeadline 8).wellFormed = false := by decide
theorem test_refuses_collision_bit : (Instr.collision 472).wellFormed = false := by decide

/-! ### Helpers -/

/-- The answer is a next state with this property. -/
def gives (a : Answer) (p : State → Bool) : Bool :=
  match a with
  | .next s => p s
  | _ => false

/-- Station 1, a CAB board, ACTIVE and at full motion, producing channels 0 and 1 with deadband 50, with the line quiet and
nothing queued (the node of the worked sequence of chapter 7). -/
def session : State := { State.reset with
  cfg := {
    station := 1, role := some .cab, seed := 0x2222
    channels := { produce := true, deadband := 50 } :: { produce := true, deadband := 50 } :: List.replicate 14 {} }
  line := { receiveOpen := true, quiet := .ended, backoffReg := 0x3333 }
  node := { state := .active }
  output := { localRequest := .live, ownRequest := .live, effective := .live, stage := .live, factor := 4096 }
  peers := { self := true, link := .present, role := some .cab, declared := [(0, 0), (1, 0)] } :: List.replicate 14 {}
  tx := { engine := .idle, sequence := 73 }
  sender := { state := .changing, lastRequest := some .live, levelTimer := some 0, refresh := some 0 } }

/-- The session with these entries queued and the engine at this step of the first. -/
def queued (w : Work) (entries : List TxEntry) : State :=
  { session with tx := { session.tx with entries, last := entries.length, engine := .working w } }

/-- A LEVEL, a BYE and a lone page as they stand begun in the queue. -/
def levelEntry : TxEntry := { body := .level [(0, 1200), (1, -400)] false, sequence := some 73, begun := true }
def byeEntry : TxEntry := { body := .bye, sequence := some 73, begun := true }
def pageEntry : TxEntry := { body := .page .alone 0 1 (some 0) [], sequence := some 73, begun := true }

/-- The LEVEL of the session as a burst. -/
def levelBurst : Burst := { source := 1, seq := 73, request := .live, hold := false, payload := .level [(0, 1200), (1, -400)] }

/-- The session driving its LEVEL since instant 0. -/
def driving : State :=
  let s := queued .driving [levelEntry]
  { s with line := { s.line with drive := .driving levelBurst 0 } }

/-- The session with station 2 heard: PRESENT, declaring channel 3. -/
def withPeer (link : Link) (fifo : List FifoEntry) : State := { session with
  fifo
  peers := session.peers.set 1 {
    link, declared := [(3, 0)], lastRequest := some .live, expected := some 255, silence := some 0, forget := some 0 }
  sources := [{ station := 2, channel := 3, held := .valid 5, rank := 0, declared := true, lastUpdate := some 0 }] }

/-- A burst of this payload from this station, in the FIFO. -/
def heard (source : Nat) (own : Bool) (payload : Payload) : FifoEntry :=
  { burst := { source, seq := 3, request := .ease, hold := true, payload }, endInstant := 100, own }

/-! ### Figures of the manual -/

/-- R1 and the limit cases of chapter 3: ties away from zero. -/
theorem test_round_tie : roundDiv (3 * 2048) 4096 = 2 ∧ roundDiv (-3 * 2048) 4096 = -2 := by decide

/-- Chapter 3, limit cases: the largest single term. -/
theorem test_largest_term : roundDiv (-32767 * -32768) 4096 = 262136 := by decide

/-- Chapter 3, worked case: the pass at factor 3072 from limited 199. -/
theorem test_axis_pass :
    Axis.compute [0, 0, 0, 1000, 0, 0, 0, 8000] 3072 199
      { taps := [⟨3, 6144⟩, ⟨7, -2048⟩], slew := 1000, clip := 20000 } = ⟨-2500, -801, -601, -601⟩ := by decide

/-- Chapter 3, limit cases: clip 1 cuts −601 to −1 and sets the flag; a pre value at the clip does not. -/
theorem test_clip : clipValue 1 (-601) = -1 ∧ clipFlag 1 (-601) = true ∧ clipFlag 20000 20000 = false := by decide

/-- Chapter 5, passes 2, 3, 11 and 12: warn 15000, hysteresis 2000. -/
theorem test_warn : warnFlag 15000 2000 false 15000 = true ∧ warnFlag 15000 2000 true 13500 = true ∧
    warnFlag 15000 2000 true 13250 = true ∧ warnFlag 15000 2000 true 6625 = false := by decide

/-- Chapter 5, passes 6, 9, 10 and 13: hard limit 25000, hard count 3. -/
theorem test_hard_count : hardCountAfter .live 25000 3 1 24000 = 0 ∧ hardCountAfter .live 25000 3 2 26500 = 3 ∧
    hardTripped 3 2 3 = true ∧ hardCountAfter .easing 25000 3 3 26500 = 3 ∧
    hardCountAfter .parked 25000 3 3 26500 = 0 := by decide

/-- Chapter 1, worked sequence, pass 101: station 4 FADING at 4000 with rank 3, station 7 VALID at 2500 with rank 1. -/
theorem test_policies :
    let voices : List Voice := [⟨4, 3, false, 4000⟩, ⟨7, 1, true, 2500⟩]
    Policy.sum.apply voices = 6500 ∧ Policy.greatest.apply voices = 4000 ∧ Policy.ranked.apply voices = 2500 := by decide

/-- R16: station 6 at +3000 and station 3 at −3000 give −3000. -/
theorem test_greatest_tie : Policy.greatest.apply [⟨6, 0, true, 3000⟩, ⟨3, 0, true, -3000⟩] = -3000 := by decide

/-- Chapter 1, passes 103 to 105: station 7 fades from 2500 by 1000, and is removed from 500. -/
theorem test_fade :
    let e : SourceEntry :=
      { station := 7, channel := 9, held := .fading 2500, rank := 1, declared := false, lastUpdate := some 98 }
    e.fadeStage 1000 = some { e with held := .fading 1500 } ∧
      SourceEntry.fadeStage 1000 { e with held := .fading 500 } = none := by decide

/-- Chapter 2, worked timeline: the victim of event 17 among the players of node 3 is player 3. -/
theorem test_victim :
    let p : PlayState → Nat → Nat → Option Player := fun state priority start =>
      some { state, source := 3, event := 1, channel := 13, profile := 5, amplitude := 1, priority, start,
             index := 0, stretchCount := 0, fadeLevel := 8 }
    (victim 2 0 [p .playing 3 500, p .playing 1 600, p .playing 0 700, p .playing 0 100, p .fading 2 940,
      p .playing 1 800, p .playing 3 960, p .armed 0 1005]).map (·.1) = some 3 := by decide

/-- Chapter 2, node 1, pass 5005: −8000 at amplitude 128 and fade level 7 gives −7000. -/
theorem test_contribution :
    Player.contribution
      { samples := [8000, -8000], nextFree := 2
        profiles := some { start := 0, length := 2, stretch := 1, endMode := .loop } :: List.replicate 15 none }
      { state := .fading, source := 1, event := 18, channel := 12, profile := 0, amplitude := 128, priority := 1,
        start := 0, index := 1, stretchCount := 0, fadeLevel := 7 } = -7000 := by decide

/-- Chapter 4, worked sequence, pass 412: 3584 and a rise of 512 reach 4096 and LIVE. -/
theorem test_rise :
    let s : State := { session with
      cfg := { session.cfg with riseStep := 512 }, output := { session.output with stage := .rising, factor := 3584 } }
    s.stepFactor.output.stage = .live ∧ s.stepFactor.output.factor = 4096 := by decide

/-- Chapter 4, worked sequence, pass 404: PARK takes the park step of 1024. -/
theorem test_park_step :
    let s : State := { session with
      cfg := { session.cfg with parkStep := 1024 }
      output := { session.output with effective := .park, stage := .easing, factor := 3328 } }
    s.stepFactor.output.factor = 2304 := by decide

/-- Chapter 8, worked sequence: the registers of A and B after their draws; R142: a seed value of 0 is replaced by 1. -/
theorem test_backoff : lfsrStep 0x3333 = 0x6666 ∧ lfsrStep 0x4555 = 0x8AAB ∧ lfsrSeed 0x1111 1 = 1 := by decide

/-- R153: the check value over the bytes 0x31 to 0x39 is 0x29B1. -/
theorem test_crc : crc16 [0x31, 0x32, 0x33, 0x34, 0x35, 0x36, 0x37, 0x38, 0x39] = 0x29B1 := by decide +kernel

/-- Chapter 9, worked decoding: page 0 of station 3, header and payload. -/
theorem test_page_bytes :
    let b : Burst := {
      source := 3, seq := 0, request := .ease, hold := false
      payload := .page0 2 3 0 [(4, 2), (5, 0), (6, 0), (8, 0)] }
    b.header ++ b.payload.bytes = [0x13, 0x00, 0x40, 0x0D, 0x02, 0x03, 0x00, 0x00, 0x04,
      0x04, 0x02, 0x05, 0x00, 0x06, 0x00, 0x08, 0x00] := by decide

/-- Chapter 9, worked decoding: the thump of station 1, and its length of 128 bit times on the line. -/
theorem test_trigger_bytes :
    let b : Burst := {
      source := 1, seq := 42, request := .live, hold := false, payload := .trigger [.start 11 17 5 160 2 8] }
    b.header ++ b.payload.bytes = [0x31, 0x2A, 0x00, 0x05, 0x2B, 0x11, 0x05, 0xA0, 0x08] ∧ b.lineBits = 128 := by decide

/-- Chapter 9, worked decoding: a LEVEL whose channel 2 follows channel 3 fails the format check with value 12. -/
theorem test_level_order :
    judgeBody 12 [0x25, 0x07, 0x00, 0x06, 0x03, 0x0F, 0xA0, 0x02, 0x01, 0xF4] = .bad .format (some 5) 12 := by decide

/-- Chapter 9, worked decoding: the same with channel 17 in the second place. -/
theorem test_level_channel :
    judgeBody 12 [0x25, 0x07, 0x00, 0x06, 0x03, 0x0F, 0xA0, 0x11, 0x01, 0xF4] = .bad .format (some 5) 12 := by decide

/-- The bits of a burst of these bytes after its start byte, in the order of R137. -/
def onWire (bytes : List Byte) : List Bool := (preamble ++ startByte :: bytes).flatMap byteBits

/-- R137: four bytes of alternating bits, then 10111001, then the header, most significant bit first. -/
theorem test_line_bits : levelBurst.onLine.take 48 =
    (List.replicate 16 [false, true]).flatten ++ [true, false, true, true, true, false, false, true] ++
      [false, false, true, false, false, false, false, true] := by decide +kernel

/-- R145: 5 bytes are a fragment, 54 are all kept, and 55 are too long, reported as 54. -/
theorem test_run_lengths :
    (Run.collect { received := true } (onWire (List.replicate 5 0))).judge = .fragment ∧
    (Run.collect { received := true } (onWire (List.replicate 54 0))).aborted = false ∧
    (Run.collect { received := true } (onWire (List.replicate 55 0))).judge = .bad .length none 54 := by decide +kernel

/-- R165: FIRE as its bytes spell it, with the event of chapter 9. -/
theorem test_fire_transaction :
    decodeTransaction 9 [0x21, 0x0B, 0x11, 0x05, 0xA0, 0x02, 0x08] = some (.fire 9 11 17 5 160 2 8) := by decide

/-- R165: SET STATION takes its seed most significant byte first; a byte short, it is not taken. -/
theorem test_station_transaction :
    decodeTransaction 0 [0x01, 0x03, 0x03, 0x12, 0x34] = some (.setStation 3 3 0x1234) ∧
      decodeTransaction 0 [0x01, 0x03, 0x03, 0x12] = none := by decide

/-- R158: ROUTE ALERTS with a route above 2 is answered PARAM. -/
theorem test_route_param : gives (exec (.routeAlerts 0 3) .reset) (·.port.response = [3]) = true := by decide

/-- R63, R70: HALT_N low makes the own request and the effective mode PARK. -/
theorem test_halt : gives (exec (.haltNChange 5 true) .reset) (·.output.effective = .park) = true := by decide

/-- R156, R157: while READY is low every command but STATUS is BUSY. -/
theorem test_busy :
    let s : State := { State.reset with port := { ready := false, blocking := .join } }
    gives (exec .takeOutput s) (·.port.response = [1]) = true ∧
      gives (exec .status s) (·.port.response.head? = some 0) = true := by decide

/-- R155, R164: SDO carries 0 until the command is taken, then the result PARAM, most significant bit first, then 0; and 0 while
RST_N is low. -/
theorem test_sdo :
    State.reset.sdo 0 = 0 ∧ gives (exec (.routeAlerts 0 3) .reset) (fun u => u.sdo 1 = 0 ∧
      u.sdoBits 0 = [false, false, false, false, false, false, true, true] ∧
      gives (exec .rstNFall u) (·.sdo 0 = 0)) = true := by decide

/-- Chapter 7, worked sequence, times 0.0 and 0.5: channel 0 moves by 200, and a LEVEL is queued with the hold flag clear. -/
theorem test_level_moves :
    let s : State := { session with
      line := { session.line with quiet := .stopped }
      sender := { session.sender with
        state := .holding, unchanged := 8, levelTimer := some 2
        posted := some 1200 :: some (-400) :: List.replicate 14 none
        lastSent := some 1000 :: some (-400) :: List.replicate 14 none } }
    gives (exec .levelIntervalExpiry s) (fun u =>
      u.tx.entries = [{ body := .level [(0, 1200), (1, -400)] false }] ∧ u.sender.state = .changing ∧
        u.tx.engine = .working .defer) = true := by decide

/-- R140: the node jams for 32 bit times from the end of the colliding bit, and counts and reports nothing before its end. -/
theorem test_collision :
    gives (exec (.collision 39) driving) (fun u =>
      u.line.drive = .jamming 72 false ∧ u.tx = driving.tx ∧ u.counters.collisions = 0 ∧
        u.line.drivenAt 40 = some false ∧ u.line.drivenAt 71 = some true ∧ u.line.drivenAt 72 = none) = true := by decide

/-- R140, R142, R143: at the end of the jam the collision is counted, and attempt 1 draws from the one low bit of 0x6666, so no
slots. -/
theorem test_jam_end :
    gives (exec .jamEnd { driving with line := { driving.line with drive := .jamming 72 false } }) (fun u =>
      u.counters.collisions = 1 ∧ u.line.backoffReg = 0x6666 ∧ u.tx.engine = .working .defer ∧
        u.line.quiet = .counting 72) = true := by decide

/-- R104, R111: JOIN queues a group and blocks. -/
theorem test_join :
    let s : State := { State.reset with cfg := { station := 3, role := some .sound } }
    gives (exec (.join 4) s) (fun u => u.node.state = .joining ∧ u.port.blocking = .join ∧
      u.tx.entries.length = 1 ∧ u.events.queue.map (·.kind) = [.nodeState]) = true := by decide

/-- The session on a listener. -/
def listening : State := { session with cfg := { session.cfg with station := 0 } }

/-- R71, R76, R78, R113: LEAVE of a listener in LIVE reports LEAVING, EASING, CONFIG, the mode and PARKED. -/
theorem test_listener_leave :
    gives (exec (.leave 4) listening) (fun u => u.events.queue.map (fun r => (r.kind, r.detail)) =
      [(.nodeState, some 3), (.stageChanged, some 1), (.nodeState, some 0), (.modeChanged, some 1),
       (.stageChanged, some 2)]) = true := by decide

/-- R107: a silent peer becomes LOST, counts a loss, and its VALID entry fades. -/
theorem test_loss :
    gives (exec (.silenceTimerExpiry 2) (withPeer .present [])) (fun u =>
      (u.peerAt 2).link = .lost ∧ (u.peerAt 2).losses = 1 ∧ u.output.effective = .ease ∧
        u.sources.map (·.held) = [.fading 5]) = true := by decide

/-- R107: a burst applied before the expiry restarts the timer, and no loss takes place; with both held by a pass too. -/
theorem test_burst_before_loss :
    let s : State := { withPeer .present [heard 2 false (.level [])] with
      merge := { session.merge with pass := some {
        order := .stepFirst, stage := .live, factor := 4096
        demands := List.replicate 8 0, pres := List.replicate 8 0, outputs := List.replicate 8 0 } } }
    gives (exec .applyBurst s) (fun t => gives (exec (.silenceTimerExpiry 2) t) fun u =>
      gives (step u) fun v => (v.peerAt 2).link = .holding ∧ (v.peerAt 2).losses = 0) = true := by decide

/-- R96: from an expectation of 255, sequence 3 counts 4 missed bursts. -/
theorem test_gap : gives (exec .applyBurst (withPeer .present [heard 2 false (.level [(3, 9)])])) (fun u =>
    (u.peerAt 2).gaps = 4 ∧ (u.peerAt 2).link = .holding ∧ u.sources.map (·.held) = [.valid 9]) = true := by decide

/-! ### The statements' hypotheses are met

For each statement with hypotheses, a state and operands that meet them, and for its clauses values at the bounds of their
ranges. -/

/-- The session with a command waiting. -/
def asked : State := { session with pending := [.askMode 0 2] }

/-- The session in a pass. -/
def midPass : State := { session with merge := { session.merge with pass := some {
  order := .stepFirst, stage := .live, factor := 4096
  demands := List.replicate 8 0, pres := List.replicate 8 0, outputs := List.replicate 8 0 } } }

/-- The session before a pass that makes `value` of channel 0, with this axis 0, limited value and monitor. -/
def onAxis (value limited : Int) (axis : Axis) (monitor : AxisMonitor := {}) : State := { session with
  cfg := { session.cfg with axes := axis :: List.replicate 7 {} }
  sources := [{ station := 1, channel := 0, held := .valid value, rank := 0, declared := true, lastUpdate := some 0 }]
  merge := { session.merge with limited := limited :: List.replicate 7 0 }
  monitor := { axes := monitor :: List.replicate 7 {} } }

theorem witness_StepTakesTheFrontCommand :
    asked.pending = .askMode 0 2 :: [] ∧ session.pending = [] ∧ session.merge.pass = none := by decide

theorem witness_StepEndsAnOpenPass :
    session.inReset = false ∧ session.BetweenPasses ∧ session.pending = [] ∧ midPass.pending = [] ∧
      midPass.merge.pass ≠ none := ⟨rfl, ⟨rfl, rfl⟩, rfl, rfl, by decide⟩

theorem witness_OutputLawKept : asked.OutputLaw ∧ ∃ t, step asked = .next t :=
  ⟨⟨⟨by decide, by decide, by decide⟩, fun _ => by decide⟩, _, rfl⟩

theorem witness_VoteLawKept : asked.VoteLaw ∧ ∃ t, step asked = .next t :=
  ⟨⟨fun _ => by show _ = _; decide, by decide⟩, _, rfl⟩

/-- A tripped node at rest. -/
def tripped : State := { session with
  monitor := { trip := true }
  output := { localRequest := .live, ownRequest := .park, effective := .park, stage := .parked, factor := 0 } }

theorem witness_TripHoldsTheNodeParked :
    tripped.OutputLaw ∧ tripped.VoteLaw ∧ tripped.inReset = false ∧ tripped.monitor.trip = true ∧
      ∃ u, exec .leaveCompletion tripped = .next u :=
  ⟨⟨⟨by decide, by decide, by decide⟩, fun h => by revert h; decide⟩, ⟨fun _ => by show _ = _; decide, by decide⟩, rfl, rfl,
    _, rfl⟩

/-- The session with a full queue and a LEVEL pending. -/
def crowded : State :=
  let s := queued .defer ({ byeEntry with begun := true } :: List.replicate 7 { byeEntry with begun := false })
  { s with pending := [.gapEnd], sender := { s.sender with pending := some false } }

theorem witness_TxLawKept : crowded.TxLaw ∧ ∃ t, step crowded = .next t :=
  ⟨⟨by decide, by decide, by decide, by decide⟩, _, rfl⟩

/-- A page of an announce group of two. -/
def groupPage (pos : GroupPos) (index : Nat) : TxEntry := { body := .page pos index 2 none [] }

/-- A group of two pages behind a LEVEL that has begun, in ACTIVE; the reset state is one in CONFIG. -/
theorem witness_OneAnnounceGroup :
    let pages := [groupPage .first 0, groupPage .last 1]
    let s : State := { queued .defer (levelEntry :: pages) with
      pending := [.gapEnd], announce := { state := .queued, remembered := true } }
    s.TxLaw ∧ s.GroupLaw ∧ s.node.state ≠ .config ∧ ∃ t, step s = .next t := by
  refine ⟨⟨by decide, by decide, by decide, by decide⟩,
    ⟨⟨[levelEntry], [groupPage .first 0, groupPage .last 1], [], 0, 2, rfl, by decide, by decide, by decide, ?_⟩,
      by decide, by decide, by decide, by decide⟩, by decide, _, rfl⟩
  intro i e h
  match i, h with
  | 0, h => cases h; exact ⟨_, _, rfl⟩
  | 1, h => cases h; exact ⟨_, _, rfl⟩

theorem witness_TableKeysKept :
    (withPeer .present []).SourceLaw ∧ (withPeer .present []).PlayerLaw ∧ ∃ t, step (withPeer .present []) = .next t :=
  ⟨by unfold State.SourceLaw; decide, ⟨by decide, by
    show List.Pairwise _ (List.replicate 8 none)
    exact List.pairwise_replicate.2 (.inr (by intro p q h; cases h))⟩, _, rfl⟩

theorem witness_QueuesAndSizesKept :
    let stored : State := { asked with store := {
      samples := [1], nextFree := 1, writing := some { number := 15, stretch := 1, endMode := .loop, samples := [2] } } }
    asked.QueueLaw ∧ asked.SizeLaw ∧ midPass.SizeLaw ∧ stored.StoreLaw ∧ asked.EventOrderLaw ∧
      asked.merge.periodCount.toNat + 1 < 2 ^ 32 ∧ ∃ t, step asked = .next t := by
  refine ⟨⟨by decide, by decide⟩, ⟨⟨rfl, rfl, rfl, rfl⟩, ⟨rfl, rfl, rfl⟩, ⟨rfl, rfl, rfl⟩, ⟨rfl, rfl⟩, ⟨rfl, rfl⟩, nofun⟩,
    ⟨⟨rfl, rfl, rfl, rfl⟩, ⟨rfl, rfl, rfl⟩, ⟨rfl, rfl, rfl⟩, ⟨rfl, rfl⟩, ⟨rfl, rfl⟩, ?_⟩, ⟨by decide, by decide, ?_⟩,
    ⟨List.Pairwise.nil, by decide⟩, by decide, _, rfl⟩
  · intro p h; cases h; exact ⟨rfl, rfl, rfl⟩
  · intro w h; cases h; decide

theorem witness_SettingsFixedOutsideConfig :
    session.node.state ≠ .config ∧ (∀ t, Instr.status ≠ .powerOnReset t) ∧ ∃ u, exec .status session = .next u :=
  ⟨by decide, nofun, _, rfl⟩

/-- Every field of a burst at a bound of its range. -/
theorem witness_OwnBurstsPassTheChecks :
    Burst.Fits ⟨15, 255, .park, true, .page0 4 255 0xFFFF [(0, 0), (15, 255), (15, 255), (0, 0)]⟩ ∧
    Burst.Fits ⟨0, 0, .live, false, .page 3 4 []⟩ ∧
    Burst.Fits ⟨15, 255, .ease, true, .level [(0, -32768), (15, 32767)]⟩ ∧
    Burst.Fits ⟨1, 0, .live, false, .trigger [.start 15 255 15 255 3 255, .cancel 255, .cancel 0, .start 0 0 0 0 0 0]⟩ ∧
    Burst.Fits ⟨1, 0, .live, false, .bye⟩ := by
  simp [Burst.Fits, Payload.Fits, declarationsFit, TriggerItem.Fits]

theorem witness_TransactionsSpellTheirCommand :
    (Instr.post 1 [(15, 0x8000)]).wellFormed = true ∧
      encodeTransaction (.post 1 [(15, 0x8000)]) = some [0x20, 1, 15, 0x80, 0] ∧
      (Instr.unknownCommand 0xFF).wellFormed = true ∧ encodeTransaction (.unknownCommand 0xFF) = some [0xFF] := by decide

theorem witness_DivisionRoundsToNearest : 0 < 4096 ∧ 4096 % 2 = 0 ∧ 2 * (2048 - 4096 * roundDiv 2048 4096).natAbs = 4096 := by
  decide

/-- One channel of this policy, and two entries of it. -/
def table (a b : Held) : List SourceEntry :=
  [{ station := 6, channel := 0, held := a, rank := 1, declared := true, lastUpdate := none },
   { station := 3, channel := 0, held := b, rank := 1, declared := true, lastUpdate := none }]

/-- Each policy; with nothing collected; two of equal magnitude; a VALID entry beside a FADING one, and FADING ones alone. -/
theorem witness_PoliciesMerge :
    (({} : Channel).policy = .sum ∧ ([{ policy := .greatest }].getD 0 ({} : Channel)).policy = .greatest ∧
      ([{ policy := .ranked }].getD 0 ({} : Channel)).policy = .ranked) ∧ voices (table .empty .empty) 0 = [] ∧
      sustained [] (table (.valid 32767) (.fading 1)) 0 = 32767 ∧
      sustained [{ policy := .greatest }] (table (.valid 3000) (.fading (-3000))) 0 = -3000 ∧
      sustained [{ policy := .ranked }] (table (.valid 1) (.fading 2)) 0 = 1 ∧
      sustained [{ policy := .ranked }] (table (.fading 1) (.fading 2)) 0 = 2 := by decide

theorem witness_FadeStage :
    session.inReset = false ∧ session.BetweenPasses ∧
      (1000 < (1001 : Int).natAbs ∧ 1000 < (-1001 : Int).natAbs ∧ (1000 : Int).natAbs ≤ 1000 ∧ (-1000 : Int).natAbs ≤ 1000) :=
  ⟨rfl, ⟨rfl, rfl⟩, by decide⟩

/-- The last step of an EASING stage, which frees the players. -/
theorem witness_PassPublishes :
    let s : State := { session with output := { session.output with stage := .easing, effective := .ease, factor := 8 } }
    session.inReset = false ∧ session.BetweenPasses ∧ s.BetweenPasses ∧
      gives (exec (.outputPeriodExpiry .stepFirst true) s) (fun u =>
        u.output.stage = .parked ∧ u.merge.frame.stage = .easing ∧ u.merge.frame.factor = 8) = true :=
  ⟨rfl, ⟨rfl, rfl⟩, ⟨rfl, rfl⟩, by decide +kernel⟩

/-- The demand a slew of 1000 reaches, and the two it does not. -/
theorem witness_AxisStages :
    let axis : Axis := { taps := [⟨0, 4096⟩], slew := 1000 }
    gives (exec (.outputPeriodExpiry .stepFirst true) (onAxis 1000 0 axis)) (·.merge.limited.getD 0 0 = 1000) = true ∧
    gives (exec (.outputPeriodExpiry .stepFirst true) (onAxis 1001 0 axis)) (·.merge.limited.getD 0 0 = 1000) = true ∧
    gives (exec (.outputPeriodExpiry .stepFirst true) (onAxis (-1001) 0 axis)) (·.merge.limited.getD 0 0 = -1000) = true := by
  decide +kernel

/-- A warn level of 0, a clear flag at the level, a set flag at the release level, and a release level of 0. -/
theorem witness_WarnFlag :
    let axis := fun warn hysteresis => ({ taps := [⟨0, 4096⟩], warn, hysteresis } : Axis)
    let flag := fun value warn hysteresis before =>
      gives (exec (.outputPeriodExpiry .monitorFirst true) (onAxis value 0 (axis warn hysteresis) { warn := before }))
        (·.merge.frame.warns.getD 0 false = true)
    flag 9 0 0 true = false ∧ flag 100 100 0 false = true ∧ flag 99 100 0 false = false ∧ flag 60 100 40 true = true ∧
      flag 59 100 40 true = false ∧ flag 1 40 40 true = true ∧ flag 0 40 40 true = false := by decide +kernel

/-- A demand at the limit, one above it, the count at its setting, and a parked stage. -/
theorem witness_HardCount :
    let axis : Axis := { taps := [⟨0, 4096⟩], hardLimit := 100, hardCount := 3 }
    let count := fun (s : State) n => gives (exec (.outputPeriodExpiry .stepFirst true) s)
      ((·.monitor.axes.getD 0 {} |>.hardCount) · = n)
    count (onAxis 100 0 axis { hardCount := 2 }) 0 = true ∧ count (onAxis 101 0 axis { hardCount := 1 }) 2 = true ∧
      count (onAxis (-101) 0 axis { hardCount := 3 }) 3 = true ∧
      count { onAxis 101 0 axis { hardCount := 2 } with output := {} } 0 = true := by decide +kernel

theorem witness_HardTripSets :
    let s := onAxis 101 0 { taps := [⟨0, 4096⟩], hardLimit := 100, hardCount := 1 }
    s.inReset = false ∧ s.merge.pass = none ∧ s.merge.held = [] ∧ s.monitor.trip = false ∧
      gives (exec (.outputPeriodExpiry .monitorFirst true) s) (fun u => u.monitor.trip ∧ u.output.factor < 4096) = true := by
  decide +kernel

/-- A pass that raises one record of each kind; and a ramp that ends in the pass of a trip, in each order of the hand-overs. -/
theorem witness_PassRecords :
    let s := onAxis 101 0 { taps := [⟨0, 4096⟩], clip := 50, warn := 50, hardLimit := 100, hardCount := 1 }
    let ends : State := { onAxis 101 0 { taps := [⟨0, 4096⟩], hardLimit := 100, hardCount := 1 } with
      output := { session.output with stage := .easing, effective := .ease, factor := 8 } }
    let raised := fun s o records => gives (exec (.outputPeriodExpiry o true) s) fun u =>
      u.events.queue.map (fun r => (r.kind, r.channel, r.value)) = records
    s.inReset = false ∧ s.merge.pass = none ∧ s.merge.held = [] ∧
      raised s .monitorFirst [(.warn, some 0, some 50), (.clip, some 0, some 101), (.hardTrip, some 0, some 101),
        (.modeChanged, none, some 0), (.stageChanged, none, some 4096)] = true ∧
      raised ends .stepFirst [(.stageChanged, none, some 0), (.hardTrip, some 0, some 101),
        (.modeChanged, none, some 1)] = true ∧
      raised ends .monitorFirst [(.hardTrip, some 0, some 101), (.modeChanged, none, some 1),
        (.stageChanged, none, some 0)] = true := by decide +kernel

/-- Each stage, with the factor at the bounds of its two clauses (the default steps are 8, 64 and 4). -/
theorem witness_FactorStep :
    let at_ := fun stage effective factor => ({ session with output := { session.output with stage, effective, factor } } : State)
    (at_ .easing .ease 8).stepFactor.output.stage = .parked ∧ (at_ .easing .ease 9).stepFactor.output.factor = 1 ∧
      (at_ .easing .park 64).stepFactor.output.stage = .parked ∧ (at_ .easing .park 65).stepFactor.output.factor = 1 ∧
      (at_ .rising .live 4092).stepFactor.output.stage = .live ∧ (at_ .rising .live 4091).stepFactor.output.factor = 4095 ∧
      (at_ .live .live 4096).stepFactor = at_ .live .live 4096 := by decide

/-- The trip in each order of the hand-overs, from LIVE, and in an EASING stage at the bounds of its clauses. -/
theorem witness_FactorStep_trip :
    let s := fun stage factor => ({ onAxis 101 0 { taps := [⟨0, 4096⟩], hardLimit := 100, hardCount := 1 } with
      output := { session.output with stage, factor, effective := if stage = .live then .live else .ease } } : State)
    let comes := fun stage factor o (out : Stage × Nat) => gives (exec (.outputPeriodExpiry o true) (s stage factor)) fun u =>
      u.monitor.trip ∧ u.output.stage = out.1 ∧ u.output.factor = out.2
    (s .live 4096).monitor.trip = false ∧ comes .live 4096 .monitorFirst (.easing, 4032) = true ∧
      comes .live 4096 .stepFirst (.easing, 4096) = true ∧ comes .easing 64 .monitorFirst (.parked, 0) = true ∧
      comes .easing 65 .monitorFirst (.easing, 1) = true ∧ comes .easing 8 .stepFirst (.parked, 0) = true := by
  decide +kernel

/-- A store of one profile of two samples, each held for two passes. -/
def oneProfile (endMode : EndMode) : Store := {
  samples := [8000, -8000], nextFree := 2
  profiles := some { start := 0, length := 2, stretch := 2, endMode } :: List.replicate 15 none }

/-- A player of profile 0. -/
def player (state : PlayState) (source event priority start index stretchCount fadeLevel : Nat) : Player :=
  { state, source, event, channel := 12, profile := 0, amplitude := 255, priority, start, index, stretchCount, fadeLevel }

/-- Between two samples, at the last of a sample, at the end of the profile, and the last level of a fade. -/
theorem witness_PlayerSteps :
    (oneProfile .once).profile 0 ≠ none ∧ (player .armed 1 1 0 500 0 0 8).started 500 = player .playing 1 1 0 500 0 0 8 ∧
    contributions (oneProfile .once) [some (player .fading 1 1 0 0 0 0 1), none, some (player .armed 2 1 0 0 0 0 8)] 12 = 1992 ∧
    (player .playing 1 1 0 0 0 0 8).after (oneProfile .once) = some (player .playing 1 1 0 0 0 1 8) ∧
    (player .playing 1 1 0 0 0 1 8).after (oneProfile .once) = some (player .playing 1 1 0 0 1 0 8) ∧
    (player .playing 1 1 0 0 1 1 8).after (oneProfile .once) = none ∧
    (player .playing 1 1 0 0 1 1 8).after (oneProfile .loop) = some (player .playing 1 1 0 0 0 0 8) ∧
    (player .fading 1 1 0 0 1 0 1).after (oneProfile .loop) = none ∧
    (player .fading 1 1 0 0 1 0 2).after (oneProfile .loop) = some (player .fading 1 1 0 0 1 1 1) := by decide

/-- The session with this store and these players. -/
def playing (players : List (Option Player)) : State := { session with store := oneProfile .once, players }

/-- A parked stage, an undefined profile, a pair in use, a FREE player, no candidate, and a victim of equal rank and start. -/
theorem witness_StartItemArms :
    let busy := List.replicate 8 (some (player .playing 2 9 1 500 0 0 8))
    let start := applyStart 1 100 12 7 0 255
    let last := fun (s : State) => s.events.queue.map (·.detail)
    last (start 1 4 { playing [none] with output := {} }) = [some 2] ∧
      last (applyStart 1 100 12 7 15 255 1 4 (playing [none])) = [some 3] ∧
      last (start 1 4 (playing [none, some (player .armed 1 7 0 0 0 0 8)])) = [some 4] ∧
      (start 1 4 (playing [none])).players = [some (player .armed 1 7 1 10100 0 0 8)] ∧
      last (start 1 4 (playing busy)) = [some 5] ∧ last (start 2 4 (playing busy)) = [some 6] ∧
      (start 2 4 (playing busy)).players = busy.set 0 (some (player .armed 1 7 2 10100 0 0 8)) := by decide

theorem witness_CancelItem :
    (applyCancel 1 7 (playing [some (player .armed 1 7 0 0 0 0 8), some (player .playing 1 7 0 0 0 0 8),
      some (player .fading 1 7 0 0 0 0 3), some (player .armed 2 7 0 0 0 0 8), none])).players =
    [none, some (player .fading 1 7 0 0 0 0 8), some (player .fading 1 7 0 0 0 0 3),
      some (player .armed 2 7 0 0 0 0 8), none] := by decide

theorem session_open : session.Open := ⟨rfl, rfl, rfl⟩

theorem reset_open : State.reset.Open := ⟨rfl, rfl, rfl⟩

/-- A request that changes the mode and the stage, with the Level Sender CHANGING, HOLDING and SILENT; and one that changes nothing. -/
theorem witness_HaltAndAskModeActOnTheVote_records :
    let s := fun state => ({ session with
      line := { session.line with quiet := .stopped }, sender := { session.sender with state } } : State)
    let asks := fun state code queue records => gives (exec (.askMode 0 code) (s state)) fun u =>
      u.tx.entries.map (·.body) = queue ∧ u.events.queue = records
    let record := fun kind value => ({ kind, count := 0, detail := some 1, value := some value } : Record)
    let eased := [record .modeChanged 0, record .stageChanged 4096]
    asks .changing 1 [.level [] false] eased = true ∧ asks .holding 1 [.level [] true] eased = true ∧
      asks .silent 1 [] eased = true ∧ asks .changing 0 [] [] = true := by decide

theorem witness_HaltAndAskModeActOnTheVote :
    session.inReset = false ∧ true ≠ session.haltLow ∧
      session.Open ∧ Mode.park.code = (2 : Byte).toNat ∧ 2 < (3 : Byte).toNat ∧ 2 < (255 : Byte).toNat ∧
      gives (exec (.askMode 0 0) session) (·.output.stage = .live) = true :=
  ⟨rfl, by decide, session_open, by decide, by decide, by decide, by decide⟩

/-- Each command of the STATE clauses, in a node state that refuses it; and BUSY. -/
theorem witness_ChecksInTheirOrder :
    let said := fun (c : Instr) s r => c.wellFormed && gives (exec c s) (·.port.response = [r])
    let blocked : State := { session with port := { ready := false, blocking := .join } }
    said (.join 0) blocked 1 = true ∧ said .clearProfiles session 2 = true ∧ said (.join 0) session 2 = true ∧
      said (.leave 0) .reset 2 = true ∧ said .quiet .reset 2 = true ∧
      said (.speak 0) { session with cfg := { session.cfg with station := 0 } } 2 = true ∧
      said (.fire 0 0 0 0 0 0 0) .reset 2 = true ∧ said (.cancel 0 0) .reset 2 = true ∧
      said (.post 1 [(0, 0)]) .reset 2 = true ∧ said (.unknownCommand 0) .reset 3 = true := by decide

/-- In CONFIG: the last station with the first and the last role, a listener, and each PARAM. -/
theorem witness_SetStationStores :
    State.reset.Open ∧ State.reset.node.state = .config ∧
      (let said := fun st role r => gives (exec (.setStation st role 0) .reset) (·.port.response = [r])
       said 15 1 0 = true ∧ said 15 5 0 = true ∧ said 0 9 0 = true ∧ said 16 1 3 = true ∧ said 1 0 3 = true ∧
         said 1 6 3 = true) := ⟨reset_open, rfl, by decide⟩

theorem witness_DefineChannelReplacesTheRecord :
    State.reset.Open ∧ State.reset.node.state = .config ∧ State.reset.cfg.channels.length = 16 ∧
      (let said := fun c p r => gives (exec (.defineChannel c p 1 0 0 0) .reset) (·.port.response = [r])
       said 15 2 0 = true ∧ said 16 2 3 = true ∧ said 15 3 3 = true) := ⟨reset_open, rfl, rfl, by decide⟩

theorem witness_DefineAxisReplacesTheRecord :
    State.reset.Open ∧ State.reset.node.state = .config ∧ State.reset.cfg.axes.length = 8 ∧
      State.reset.monitor.axes.length = 8 ∧
      (let said := fun a k c r =>
        gives (exec (.defineAxis a k ⟨c, 1⟩ ⟨15, 1⟩ ⟨15, 1⟩ ⟨15, 1⟩ 1 1 1 1 1 1) .reset) (·.port.response = [r])
       said 7 4 15 0 = true ∧ said 7 0 16 0 = true ∧ said 8 4 15 3 = true ∧ said 7 5 15 3 = true ∧ said 7 1 16 3 = true) :=
  ⟨reset_open, rfl, rfl, rfl, by decide⟩

/-- In CONFIG, with 1023 samples stored: the last place, one too many, a profile that is defined, and each PARAM. -/
theorem witness_StoreProfileChecksAndBegins :
    let s : State := { State.reset with store := { oneProfile .once with nextFree := 1023 } }
    let said := fun p e (l : Word16) samples r =>
      (samples.length == sampleCount l) && gives (exec (.storeProfile p 1 e l samples) s) (·.port.response = [r])
    s.Open ∧ s.node.state = .config ∧ said 15 1 1 [5] 0 = true ∧ said 15 1 2 [5, 6] 4 = true ∧ said 0 1 1 [5] 3 = true ∧
      said 16 1 1 [5] 3 = true ∧ said 15 2 1 [5] 3 = true ∧ said 15 1 0 [] 3 = true ∧ said 15 1 257 [] 3 = true :=
  ⟨⟨rfl, rfl, rfl⟩, rfl, by decide⟩

theorem witness_ProfilesAreDefinedAndCleared :
    let w : ProfileWrite := { number := 15, stretch := 16, endMode := .loop, samples := [-32767] }
    let s : State := { State.reset with store := { oneProfile .once with writing := some w } }
    (s.inReset = false ∧ s.store.writing = some w ∧ w.number ≤ 15 ∧ s.store.profiles.length = 16 ∧
      s.store.nextFree ≤ s.store.samples.length) ∧
      State.reset.Open ∧ State.reset.node.state = .config ∧ session.Open ∧ session.node.state ≠ .config :=
  ⟨by decide, reset_open, rfl, session_open, by decide⟩

theorem witness_TimingStageAndRoutesReplaced :
    State.reset.Open ∧ State.reset.node.state = .config ∧ EventClass.ofCode (4 : Byte).toNat = some .limit ∧
      Route.ofCode (2 : Byte).toNat = some .alertB ∧ 4 < (5 : Byte).toNat ∧ 2 < (3 : Byte).toNat :=
  ⟨reset_open, rfl, by decide, by decide, by decide, by decide⟩

/-- Station 15 in CONFIG, producing every channel; the reset state is a listener in CONFIG. -/
theorem witness_JoinStartsTheSession :
    let s : State := { State.reset with
      cfg := { station := 15, role := some .aux, channels := List.replicate 16 { produce := true } } }
    let hypotheses := fun s : State => s.Open ∧ s.node.state = .config ∧ s.sender.state = .silent ∧ s.tx.entries = [] ∧
      s.tx.engine = .off ∧ s.sources = [] ∧ s.peers.length = 15 ∧ s.cfg.station ≤ 15 ∧ s.events.queue.length < 32
    (hypotheses s ∧ s.cfg.station ≠ 0) ∧ hypotheses .reset ∧ State.reset.cfg.station = 0 :=
  ⟨⟨⟨⟨rfl, rfl, rfl⟩, by decide⟩, by decide⟩, ⟨reset_open, by decide⟩, rfl⟩

/-- Where carrier stands as the receive path opens, the quiet count waits for its end. -/
theorem witness_JoinStartsTheSession_quiet :
    let s := fun run => ({ State.reset with
      cfg := { station := 15, role := some .aux }, line := { State.reset.line with run } } : State)
    gives (exec (.join 7) (s none)) (·.line.quiet = .counting 7) = true ∧
      gives (exec (.join 7) (s (some { received := false }))) (·.line.quiet = .stopped) = true := by decide

/-- JOIN in a pass leaves the Source Table as it is; as the pass ends the own entries join it. -/
theorem witness_JoinStartsTheSession_inPass :
    let s : State := { State.reset with cfg := session.cfg, merge := midPass.merge }
    s.Open ∧ s.node.state = .config ∧ s.merge.pass ≠ none ∧ s.merge.held = [] ∧ s.pending = [] ∧ s.cfg.station ≠ 0 ∧
      gives (exec (.join 7) s) (fun u => u.sources = [] ∧ u.merge.held = [.ownEntries] ∧ u.node.state = .joining ∧
        (u.peerAt 1).declared = [(0, 0), (1, 0)] ∧
        gives (step { u with merge := s.merge }) (·.sources = []) ∧
        gives (step u) fun v => v.merge.pass = none ∧ v.merge.held = [] ∧
          v.sources.map (fun e => (e.station, e.channel, e.held)) = [(1, 0, .empty), (1, 1, .empty)]) = true :=
  ⟨⟨rfl, rfl, rfl⟩, rfl, by decide, rfl, rfl, by decide, by decide +kernel⟩

/-- JOIN answers with READY still high and no event offered, and blocks; on a listener it does not block. -/
theorem witness_JoinStartsTheSession_port :
    let port := fun station => gives (exec (.join 7) { State.reset with cfg := { station, role := some .aux } })
    port 15 (fun u => u.port.ready = true ∧ u.port.offered = 0 ∧ u.port.blocking = .join) = true ∧
      port 0 (fun u => u.port.ready = true ∧ u.port.blocking = .none) = true := by decide

/-- Sixteen declarations make four pages, four in each; a seed that the station's number cancels is replaced by 1. -/
theorem witness_JoinStartsTheSession_pages :
    let s := fun produce => ({ State.reset with
      cfg := { station := 15, role := some .aux, seed := 0xFFFF, channels := List.replicate 16 { produce } } } : State)
    let joined := fun produce => gives (exec (.join 0) (s produce))
    joined true (fun u => u.line.backoffReg = 1 ∧ u.tx.entries.map (·.body) = [
      .page .first 0 4 none [(0, 0), (1, 0), (2, 0), (3, 0)], .page .middle 1 4 none [(4, 0), (5, 0), (6, 0), (7, 0)],
      .page .middle 2 4 none [(8, 0), (9, 0), (10, 0), (11, 0)],
      .page .last 3 4 none [(12, 0), (13, 0), (14, 0), (15, 0)]]) = true ∧
    joined false (fun u => u.tx.entries.map (·.body) = [.page .alone 0 1 none []]) = true := by decide

/-- A talking node ACTIVE with its engine IDLE and SUSPENDED, one JOINING that drives, and a listener between passes and in a
pass. -/
theorem witness_LeaveEndsTheSession :
    let inPass : State := { listening with merge := midPass.merge }
    session.Open ∧ session.node.state = .active ∧ session.cfg.station ≠ 0 ∧ session.tx.engine = .idle ∧
      ({ driving with node := { state := .joining } } : State).Open ∧ driving.tx.engine = .working .driving ∧
      (listening.Open ∧ listening.cfg.station = 0 ∧ listening.merge.pass = none ∧ listening.output.stage = .live) ∧
      (inPass.Open ∧ inPass.merge.pass ≠ none ∧ gives (exec (.leave 4) inPass) (·.output.stage = .easing) = true) :=
  ⟨session_open, rfl, by decide, rfl, ⟨rfl, rfl, rfl⟩, rfl, ⟨⟨rfl, rfl, rfl⟩, rfl, rfl, rfl⟩,
    ⟨rfl, rfl, rfl⟩, by decide, by decide⟩

/-- LEAVE while an entry is driven: the drive goes on and the entry stands as it was, the BYE behind it and the others gone; an idle
engine takes up the BYE at once on a line whose gap has ended, and a suspended one waits for the gap. -/
theorem witness_LeaveEndsTheSession_talking :
    let left := fun s p => gives (exec (.leave 4) s) p
    let page := { pageEntry with attempts := 5 }
    let s : State := { driving with
      tx := { driving.tx with entries := [page, { body := .bye }], last := 2 }, announce := { state := .begun, remembered := true } }
    let suspended : State := { session with
      tx := { session.tx with engine := .suspended }, line := { session.line with quiet := .counting 0 } }
    left s (fun u => u.line = s.line ∧ u.tx = { s.tx with entries := [page, { body := .bye }], last := 2 } ∧
        u.announce = { state := .begun }) = true ∧
      left session (fun u => u.tx.engine = .working .driving ∧ u.tx.entries = [byeEntry] ∧
        u.line.drivenAt 4 = some false) = true ∧
      left suspended (fun u => u.tx.engine = .working .defer ∧ u.tx.entries = [{ body := .bye }]) = true := by decide +kernel

/-- What LEAVE of a listener clears: a player, a limited value, a flag, a hard count and a peer's record but for its counters. -/
theorem witness_LeaveEndsTheSession_listener :
    let peer : PeerRecord := { link := .lost, role := some .sound, forget := some 0, gaps := 4, losses := 2, undeclared := 1 }
    let s : State := { onAxis 0 9 {} { warn := true, hardCount := 2 } with
      cfg := listening.cfg, peers := session.peers.set 3 peer
      players := some (player .playing 2 1 0 0 0 0 8) :: List.replicate 7 none }
    gives (exec (.leave 4) s) (fun u => u.players = List.replicate 8 none ∧ u.merge.limited = List.replicate 8 0 ∧
      u.monitor.axes = List.replicate 8 {} ∧ u.peerAt 4 = { gaps := 4, losses := 2, undeclared := 1 } ∧ u.sources = []) = true := by
  decide

theorem witness_LeaveCompletionEmptiesTheNode :
    let s : State := { session with
      node := { state := .leaving, leaveDue := true }, port := { ready := false, blocking := .leave } }
    s.inReset = false ∧ s.node.leaveDue = true ∧ s.node.state = .leaving ∧ s.merge.pass = none ∧
      s.port.blocking = .leave ∧ s.events.queue.length < 32 := by decide

/-- With a pass in progress LEAVE completion is held, and made as that pass ends; with none due nothing happens. -/
theorem witness_LeaveCompletionEmptiesTheNode_held :
    let s := fun leaveDue => ({ midPass with node := { state := .leaving, leaveDue } } : State)
    (s true).merge.pass ≠ none ∧ (s true).pending = [] ∧
      gives (exec .leaveCompletion (s true)) (fun u => u.merge.held = [.leaveCompletion] ∧ u.node.state = .leaving ∧
        gives (step u) (·.node.state = .config)) = true ∧
      gives (exec .leaveCompletion (s false)) (· = s false) = true := by decide +kernel

/-- RESTART is taken. While RST_N is low a change of HALT_N, of the line and of SEL_N is all that is seen. A transaction that RST_N
cuts, and one that begins while it is low, is ignored to its end, after the release too. -/
theorem witness_ResetsPutTheNodeBack :
    let cut := fun n => gives (exec .takeOutput session) fun s => gives (exec .rstNFall s) fun u =>
      gives (exec n u) fun v => gives (exec (.powerOnReset 9) v) fun w => w.port.decoder = .ignoring ∧
        gives (exec .status w) (· = w) ∧ gives (exec (.transactionEnd 40) w) (·.port.decoder = .waiting)
    session.Open ∧ (∃ u v w, exec .rstNFall session = .next u ∧ exec (.haltNChange 9 true) u = .next v ∧ v.haltLow = true ∧
      exec (.carrierStart 9) u = .next w ∧ w.line.run = some { received := false }) ∧
      encodeTransaction .status ≠ none ∧ cut (.haltNChange 0 true) = true ∧ cut .status = true ∧
      gives (exec .rstNFall session) (fun u => gives (exec .status u) (·.port.decoder = .ignoring)) = true :=
  ⟨session_open, ⟨_, _, _, rfl, rfl, rfl, rfl, rfl⟩, by decide, by decide, by decide, by decide⟩

theorem witness_QuietAndSpeak :
    let suspended : State := { queued .defer [levelEntry] with node := { state := .active, quiet := true } }
    session.Open ∧ session.node.state = .active ∧ session.cfg.station ≠ 0 ∧ session.tx.engine = .idle ∧
      session.line.quiet = .ended ∧ session.line.run = none ∧ session.line.drive = .idle ∧
      suspended.Open ∧ suspended.tx.entries ≠ [] ∧
      gives (exec (.speak 0) { suspended with tx := { suspended.tx with engine := .suspended } })
        (·.tx.engine = .working .driving) = true :=
  ⟨session_open, rfl, by decide, rfl, rfl, rfl, rfl, ⟨rfl, rfl, rfl⟩, by decide, by decide⟩

/-- SPEAK with an entry while the quiet count stands at 63 and at 64, and with carrier. -/
theorem witness_QuietAndSpeak_quiet :
    let speaks := fun t run engine => gives (exec (.speak t) { session with
      line := { session.line with quiet := .counting 0, run }
      tx := { session.tx with entries := [levelEntry], engine := .suspended } }) fun u => u.tx.engine = .working engine
    speaks 63 none .defer = true ∧ speaks 64 none .driving = true ∧ speaks 64 (some { received := true }) .defer = true := by
  decide

/-- One pair and a repeated channel of those produced; the counts out of range; a channel not produced. -/
theorem witness_PostStoresTheValues :
    session.Open ∧ session.node.state = .active ∧ session.cfg.station ≠ 0 ∧ session.sender.posted.length = 16 ∧
      (let said := fun n pairs r => (pairs.length == pairCount n) && gives (exec (.post n pairs) session) (·.port.response = [r])
       said 2 [(1, 7), (1, 8)] 0 = true ∧ said 16 (List.replicate 16 (0, 0x8000)) 0 = true ∧ said 0 [] 3 = true ∧
         said 17 [] 3 = true ∧ said 1 [(2, 7)] 3 = true ∧ said 1 [(16, 7)] 3 = true) :=
  ⟨session_open, rfl, by decide, rfl, by decide⟩

/-- An empty queue, a queue with one place, a full queue, and each PARAM. -/
theorem witness_FireAndCancelQueueATrigger :
    session.Open ∧ session.node.state = .active ∧ session.cfg.station ≠ 0 ∧
      (let said := fun (c : Instr) s r => gives (exec c s) (·.port.response = [r])
       let queue := fun n => queued .defer (List.replicate n byeEntry)
       said (.fire 0 15 255 15 255 3 255) session 0 = true ∧ said (.cancel 0 255) (queue 7) 0 = true ∧
         said (.cancel 0 255) (queue 8) 4 = true ∧ said (.fire 0 16 0 0 0 0 0) session 3 = true ∧
         said (.fire 0 0 0 16 0 0 0) session 3 = true ∧ said (.fire 0 0 0 0 0 4 0) session 3 = true) :=
  ⟨session_open, rfl, by decide, by decide⟩

/-- A record of two declarations, the first and the last station, and a station above 15. -/
theorem witness_ReadsGiveTheState :
    session.inReset = false ∧ session.port.decoder = .waiting ∧ session.port.ready = true ∧
      session.merge.frame.outputs.length = 8 ∧ session.merge.lastChannels.values.length = 16 ∧
      session.merge.lastChannels.ages.length = 16 ∧ 1 ≤ (1 : Byte).toNat ∧ (15 : Byte).toNat ≤ 15 ∧ 15 < (16 : Byte).toNat ∧
      (session.peerAt 1).declared[1]? = some (1, 0) ∧
      gives (exec (.peer 1) session) (·.port.response =
        [0, 1, 1, 1, 0xFF, 0xFF, 0xFF, 0, 0, 0, 0, 0, 2, 0, 0, 1, 0]) = true := by
  decide

/-- An empty queue, and one of five records: the four offered, and what leaves at 13, 14 and 50 bytes. -/
theorem witness_EventsLeaveAtTheRise :
    let s : State := { session with events := { queue := List.replicate 5 { kind := .peerLeft, count := 0 } } }
    session.Open ∧ session.events.queue = [] ∧ s.Open ∧ s.events.queue ≠ [] ∧
      (let left := fun n k => gives (exec .takeEvents s) fun u => gives (exec (.transactionEnd n) u) (·.events.queue.length = k)
       left 13 5 = true ∧ left 14 4 = true ∧ left 50 1 = true) := ⟨session_open, rfl, ⟨rfl, rfl, rfl⟩, by decide, by decide⟩

/-- With one place left and with none, the two records of HALT_N, the first of them held; a dropped count that stands at its top;
the lines with a record of an alerting class and of another. -/
theorem witness_EventQueueAndAlertLines :
    let s := fun n dropped => ({ session with events := {
      queue := List.replicate n { kind := .peerLeft, count := 0 }, dropped } } : State)
    let halted := fun n dropped p => gives (exec (.haltNChange 0 true) (s n dropped)) p
    let alerts := fun kind => ({ session with events := { queue := [{ kind, count := 0 }] } } : State)
    (∀ t, Instr.haltNChange 0 true ≠ .powerOnReset t) ∧ (∀ t, Instr.haltNChange 0 true ≠ .restart t) ∧
      (∀ n, Instr.haltNChange 0 true ≠ .transactionEnd n) ∧
      halted 30 0 (fun u => u.events.queue.length = 32 ∧ u.events.dropped = 0) = true ∧
      halted 31 0 (fun u => u.events.queue.getLast?.map (·.kind) = some .modeChanged ∧ u.events.dropped = 1) = true ∧
      halted 32 254 (·.events.dropped = 255) = true ∧
      (alerts .lineFault).alertA = true ∧ (alerts .peerLeft).alertA = false :=
  ⟨nofun, nofun, nofun, by decide, by decide, by decide, by decide, by decide⟩

/-- A heard peer with its silence timer running, a lost one with its forget timer, one with an assembly, and a pass. -/
theorem witness_PeerTimersRunOut :
    let s := withPeer .present []
    let t : State := { s with merge := midPass.merge }
    s.inReset = false ∧ s.peers.length = 15 ∧ s.merge.pass = none ∧ (s.peerAt 2).silence = some 0 ∧
      (s.peerAt 2).forget = some 0 ∧ t.merge.pass ≠ none ∧ (t.peerAt 2).silence = some 0 ∧ (t.peerAt 2).forget = some 0 ∧
      s.now < 0 + 10000 * s.cfg.timing.silence ∧ (s.peerAt 15).silence = none ∧ (s.peerAt 1).forget = none ∧
      (({ s with peers := s.peers.set 14 { assembly := some {
        expected := 2, next := 1, role := 1, decls := [], known := 0, startedAt := 7 } } } : State).peerAt 15).assembly ≠ none := by
  decide

/-- Of the players of a departed peer only the PLAYING one of the LOOP profile fades: by loss, by forgetting and by BYE. Another
source's, an ARMED one, a FADING one and one of a ONCE profile stay. -/
theorem witness_PeerTimersRunOut_players :
    let players := fun (first : Player) => [some first, some (player .armed 2 1 0 9 0 0 8), some (player .fading 2 2 0 0 0 0 3),
      some (player .playing 3 3 0 0 0 0 8), none]
    let s := fun mode first => ({ withPeer .present [heard 2 false .bye] with
      store := oneProfile mode, players := players first } : State)
    let live := player .playing 2 0 0 0 1 1 8
    let fades := fun c mode first after => gives (exec c (s mode first)) (·.players = players after)
    fades (.silenceTimerExpiry 2) .loop live { live with state := .fading, fadeLevel := 8 } = true ∧
      fades (.silenceTimerExpiry 2) .once live live = true ∧
      fades (.forgetTimerExpiry 2) .loop live { live with state := .fading, fadeLevel := 8 } = true ∧
      fades (.forgetTimerExpiry 2) .once live live = true ∧
      fades .applyBurst .loop live { live with state := .fading, fadeLevel := 8 } = true ∧
      fades .applyBurst .once live live = true ∧
      gives (exec (.silenceTimerExpiry 2) (s .once live)) (fun u =>
        u.events.queue.head? = some { kind := .peerLost, count := 0, station := some 2, value := some 1 }) = true := by decide

/-- In a pass a silence expiry, a forget expiry and APPLY_BURST are held and made as the pass ends; behind a held burst that restarts
the silence timer the expiry comes to nothing. -/
theorem witness_PeerTimersRunOut_held :
    let s := fun fifo => ({ withPeer .present fifo with merge := midPass.merge } : State)
    let ends := fun c t p => gives (exec c t) fun u => gives (step u) p
    let burst := s [heard 2 false (.level [])]
    burst.pending = [] ∧ ends (.silenceTimerExpiry 2) (s []) (fun v => (v.peerAt 2).link = .lost ∧ (v.peerAt 2).losses = 1) = true ∧
      ends (.forgetTimerExpiry 2) (s []) (fun v => (v.peerAt 2).link = .absent ∧ v.merge.pass = none) = true ∧
      ends .applyBurst burst (fun v => v.fifo = [] ∧ (v.peerAt 2).link = .holding) = true ∧
      gives (exec .applyBurst burst) (fun t => ends (.silenceTimerExpiry 2) t fun v =>
        (v.peerAt 2).silence = some v.now ∧ (v.peerAt 2).losses = 0) = true := by decide +kernel

theorem witness_JoinWindowEnds :
    let s : State := { session with node := { state := .joining, window := some 0 }, sender := {} }
    s.inReset = false ∧ s.node.window = some 0 ∧ s.sender.state = .silent ∧ s.cfg.station ≠ 0 ∧
      s.events.queue.length < 32 := by decide

/-- One expiry short of the interval and at it; a channel at its deadband and one past it; the count at each of its bounds. -/
theorem witness_SenderTimersRunOut :
    let sender := fun (posted : Int) unchanged timer => ({ session with sender := { session.sender with
      levelTimer := some timer, unchanged, posted := some posted :: List.replicate 15 none
      lastSent := some 0 :: List.replicate 15 none } } : State)
    let state := fun (s : State) st n => gives (exec .levelIntervalExpiry s) fun u =>
      u.sender.state = st ∧ u.sender.unchanged = n
    gives (exec .levelIntervalExpiry (sender 51 0 1)) (· = sender 51 0 1) = true ∧ state (sender 51 3 2) .changing 0 = true ∧
      state (sender 50 7 2) .holding 8 = true ∧ state (sender 50 8 2) .changing 8 = true ∧
      (sender 0 0 0).sender.refresh = some 0 ∧
      ({ session with announce := { holdOff := some 0, remembered := true } } : State).announce.holdOff = some 0 := by decide

/-- The hold-off of a remembered group behind seven entries, where its one page fits, and behind eight, where it waits. -/
theorem witness_SenderTimersRunOut_holdOff :
    let after := fun n waiting pages => gives (exec .announceHoldOffExpiry { queued .defer (List.replicate n byeEntry) with
      announce := { holdOff := some 0, remembered := true } }) fun u =>
        u.announce = { state := .queued, waiting } ∧
        u.tx.entries.map (·.body) = List.replicate n .bye ++ List.replicate pages (.page .alone 0 1 none [(0, 0), (1, 0)])
    after 7 false 1 = true ∧ after 8 true 0 = true := by decide

/-- A TRIGGER behind the current entry, one at the current position in DRIVING, and a STOPPED engine. -/
theorem witness_StaleTriggerIsDropped :
    let e : TxEntry := { body := .trigger (.cancel 9) 0 100000 }
    let s := queued .defer [levelEntry, e]
    s.inReset = false ∧ s.tx.entries.length ≤ 8 ∧ s.tx.entries[1]? = some e ∧ s.tx.engine ≠ .stopped ∧ s.tx.engine ≠ .idle ∧
      s.sender.pending = none ∧ s.announce.waiting = false ∧ (queued .driving [e]).tx.engine = .working .driving ∧
      (queued .driving [e]).tx.entries[0]? = some e ∧
      ({ s with tx := { s.tx with engine := .stopped } } : State).tx.engine = .stopped := by decide

/-- The current TRIGGER in DEFER, BACKOFF, SUSPENDED and SUSPENDING, where it is being driven; and behind a full queue, with a LEVEL
pending and with a group waiting that then fits. -/
theorem witness_StaleTriggerIsDropped_engines :
    let e : TxEntry := { body := .trigger (.cancel 9) 0 50, begun := true, sequence := some 73 }
    let s := fun engine => ({ driving with
      line := { driving.line with drive := if engine = .suspending .driving then driving.line.drive else .idle, quiet := .stopped }
      tx := { session.tx with entries := [e, { byeEntry with begun := false }], engine } } : State)
    let comes := fun engine after => gives (exec (.staleDeadline 0) (s engine)) fun u =>
      u.tx.engine = after ∧ u.tx.entries.map (·.body) = [.bye] ∧ u.line.drive = .idle ∧ u.counters.txDropped = 1
    let full := fun waiting => ({ crowded with
      tx := { crowded.tx with entries := crowded.tx.entries.set 3 { e with begun := false } |>.take (if waiting then 7 else 8) }
      sender := { crowded.sender with pending := if waiting then none else some true }
      announce := { state := .queued, waiting } } : State)
    comes (.working .defer) (.working .defer) = true ∧ comes (.working .backoff) (.working .defer) = true ∧
      comes .suspended .suspended = true ∧ comes (.suspending .defer) .suspended = true ∧
      comes (.suspending .driving) .suspended = true ∧
      gives (exec (.staleDeadline 3) (full false)) (fun u => u.sender.pending = none ∧
        u.tx.entries.map (·.body) = List.replicate 7 .bye ++ [.level [] true]) = true ∧
      gives (exec (.staleDeadline 3) (full true)) (fun u => u.announce.waiting = false ∧
        u.tx.entries.map (·.isPage) = List.replicate 6 false ++ [true]) = true := by decide

/-- There is always a wrong check value. -/
theorem wrong_crc (x : BitVec 16) : ∃ hi lo : Byte, hi ++ lo ≠ x := by
  by_cases h : x = 0
  · exact ⟨1, 0, by subst h; decide⟩
  · exact ⟨0, 0, fun e => h (by rw [← e]; decide)⟩

/-- These bytes with their check value behind them. -/
def checked (body : List Byte) : List Byte := body ++ bytes16 (crc16 body).toNat

/-- The session while it receives a run. -/
def receiving : State := { session with line := { session.line with quiet := .counting 0, run := some { received := true } } }

/-- The carrier clauses at 39 and 40 bits, a run received from its start and one that is not, and a run in which the start byte
stands first after the preamble. -/
theorem witness_RunsAreReceived :
    let t : State := { session with line := { session.line with run := some { received := false } } }
    receiving.line.receiveOpen = true ∧ receiving.line.drive = .idle ∧ receiving.line.run = some { received := true } ∧
      t.line.run = some { received := false } ∧ session.line.run = none ∧ receiving.fifo.length < 4 ∧ levelBurst.Fits ∧
      (∀ since, (Quiet.counting 39) = .counting since → 39 + 39 < since + 40) ∧
      (∀ since, (Quiet.counting 39) = .counting since → since + 40 ≤ 79) ∧
      (∃ lead tail, onWire [1, 2, 3, 4, 5, 6] = lead ++ byteBits startByte ++ [1, 2, 3, 4, 5, 6].flatMap byteBits ++ tail ∧
        tail.length < 8 ∧ ∀ i, i < lead.length → ((onWire [1, 2, 3, 4, 5, 6]).drop i).take 8 ≠ byteBits startByte) := by
  refine ⟨rfl, rfl, rfl, rfl, rfl, by decide, by simp [Burst.Fits, Payload.Fits, levelBurst], ?_, ?_,
    ⟨preamble.flatMap byteBits, [], rfl, by decide, by decide +kernel⟩⟩
  all_goals (intro since h; cases h; decide)

/-- A run that is not received restarts the quiet count at its end, but not while this node drives or with the path closed. -/
theorem witness_RunsAreReceived_quiet :
    let after := fun (s : State) open_ quiet => gives (exec (.runEnd 9 []) { s with
      line := { s.line with run := some { received := false }, receiveOpen := open_ } }) fun u =>
        u.line.quiet = quiet ∧ u.line.run = none ∧ u.counters = s.counters
    after session true (.counting 9) = true ∧ after session false .ended = true ∧ after driving true .ended = true := by decide

/-- Each judgement at the bounds of its clause: no start byte, 5 and 6 bytes (54 and 55 stand in
test_run_lengths); kinds 0, 1, 4 and 5; each format check, a value that fails beside one that passes. -/
theorem witness_RunsAreReceived_judgements :
    let after := fun bits p => gives (exec (.runEnd 9 bits) receiving) p
    let bad := fun reason bytes => after (onWire bytes) fun u =>
      u.counters.badBursts = 1 ∧ u.events.queue.map (fun r => (r.kind, r.detail)) = [(.badBurst, some reason)]
    let good := fun body => after (onWire (checked body)) (·.fifo.length = 1)
    after [] (·.counters.fragments = 1) = true ∧ after (onWire (List.replicate 5 0)) (·.counters.fragments = 1) = true ∧
      bad 2 (List.replicate 6 0) = true ∧
      bad 3 (checked [0x05, 0, 0, 0]) = true ∧ bad 3 (checked [0x55, 0, 0, 0]) = true ∧ good [0x45, 0, 0, 0] = true ∧
      bad 4 (checked [0x45, 0, 0xC0, 0]) = true ∧ bad 4 (checked [0x45, 0, 0, 1]) = true ∧
      bad 4 (checked [0x45, 0, 0, 1, 0]) = true ∧ bad 4 (checked [0x15, 0, 0, 0]) = true ∧
      bad 4 (checked [0x15, 0, 0, 4, 0x11, 1, 0, 0]) = true ∧ good [0x15, 0, 0, 4, 0x12, 1, 15, 0] = true ∧
      bad 4 (checked [0x15, 0, 0, 4, 0x12, 1, 16, 0]) = true ∧ bad 4 (checked [0x25, 0, 0, 3, 16, 0, 0]) = true ∧
      good [0x25, 0, 0, 3, 15, 0, 0] = true ∧ bad 4 (checked [0x25, 0, 0, 6, 3, 0, 0, 3, 0, 0]) = true ∧
      bad 4 (checked [0x35, 0, 0, 0]) = true ∧ good [0x35, 0, 0, 5, 0x80, 1, 0, 0, 0] = true := by
  decide +kernel

/-- Ones in the bits that a receiver does not read change nothing: of byte 2 of the header, of a START item and of a CANCEL item. Nor
do other bits before the start byte and bits left over at the end. -/
theorem witness_RunsAreReceived_unread :
    let heardAs := fun bits payload => gives (exec (.runEnd 9 bits) receiving) fun u => u.fifo = [
      { burst := { source := 5, seq := 7, request := .ease, hold := true, payload }, endInstant := 9, own := false }]
    let bye := checked [0x45, 7, 0x60, 0]
    heardAs (onWire bye) .bye = true ∧ heardAs (onWire (checked [0x45, 7, 0x7F, 0])) .bye = true ∧
      heardAs ([true, true, false] ++ (startByte :: bye).flatMap byteBits ++ List.replicate 7 true) .bye = true ∧
      heardAs (onWire (checked [0x35, 7, 0x60, 10, 0x7B, 17, 0xF5, 160, 8, 0xFF, 17, 1, 2, 3]))
        (.trigger [.start 11 17 5 160 3 8, .cancel 17]) = true := by decide +kernel

/-- The gap ends on an engine in DEFER with an entry to begin and with one that has begun, on an idle engine, and while the node
drives. A wait ends while the quiet count is stopped, at 63 and at 64, and after the gap. -/
theorem witness_GapAndWaitStartTheDrive :
    let gap := fun s : State => ({ s with line := { s.line with quiet := .counting 7 } } : State)
    let fresh := gap (queued .defer [{ levelEntry with sequence := none, begun := false }])
    let wait := fun q => ({ queued .backoff [levelEntry] with
      line := { session.line with wait := .running 168, quiet := q } } : State)
    (fresh.line.quiet = .counting 7 ∧ fresh.tx.engine.work = some .defer ∧ fresh.line.drive = .idle ∧
      fresh.tx.entries ≠ [] ∧ (gap (queued .defer [levelEntry])).tx.entries = [levelEntry] ∧
      (gap session).tx.engine.work ≠ some .defer ∧ (gap driving).line.drive ≠ .idle ∧
      gives (exec .gapEnd fresh) (fun u => u.tx.sequence = 74 ∧ u.line.drive = .driving levelBurst 71 ∧
        u.line.drivenAt 103 = some true ∧ u.line.drivenAt 104 = some false) = true) ∧
      (wait .ended).line.wait = .running 168 ∧ (wait .ended).tx.engine.work = some .backoff ∧ (wait .ended).line.run = none ∧
      (wait .ended).line.drive = .idle ∧ (wait .ended).tx.entries ≠ [] ∧ (wait .stopped).line.quiet = .stopped ∧
      gives (exec .backoffWaitEnd (wait (.counting 105))) (·.tx.engine = .working .defer) = true ∧
      gives (exec .backoffWaitEnd (wait (.counting 104))) (·.line.drive = .driving levelBurst 168) = true ∧
      gives (exec .backoffWaitEnd (wait .ended)) (·.line.drive = .driving levelBurst 168) = true := by decide +kernel

/-- Page 0 on its first attempt, with stations 2 HOLDING, 15 PRESENT, 3 LOST and 4 ABSENT; and on a retry. -/
theorem witness_GapAndWaitStartTheDrive_page :
    let peers := ((session.peers.set 1 { link := .holding }).set 14 { link := .present }).set 2 { link := .lost }
    let s := fun e => ({ queued .defer [e] with
      line := { session.line with quiet := .counting 7 }, peers, announce := { state := .queued } } : State)
    let drives := fun e p => gives (exec .gapEnd (s e)) p
    drives { groupPage .first 0 with begun := false } (fun u => u.announce.state = .begun ∧
        u.tx.entries.map (·.body) = [.page .first 0 2 (some 0x8004) []]) = true ∧
      drives { groupPage .last 1 with begun := false } (·.announce.state = .queued) = true ∧
      drives pageEntry (fun u => u.announce.state = .queued ∧ u.tx.entries = [pageEntry]) = true := by decide +kernel

/-- With two failed checks in a row and with one; the third failure ends in FAULT. -/
theorem witness_EchoCheckJudgesTheDrive :
    let s := fun n => ({ driving with line := { driving.line with echoFails := n } } : State)
    (s 2).line.drive = .driving levelBurst 0 ∧ (s 2).line.run = none ∧ (s 2).tx.entries = [levelEntry] ∧
      ([] : List TxEntry).length < 8 ∧ (s 1).tx.engine = .working .driving ∧ (s 1).line.echoFails < 2 ∧
      2 ≤ (s 2).line.echoFails ∧ (s 2).node.state = .active ∧ (s 2).events.queue.length < 30 ∧
      gives (exec (.echoCheck false) (s 1)) (·.node.state = .active) = true ∧
      gives (exec (.echoCheck false) (s 2)) (·.node.state = .fault) = true := by decide

/-- A TRIGGER one bit time before its deadline and at it, and the twelfth failure with and without persist, as the second failed
check in a row and as the third; and a BYE dropped in SUSPENDING. -/
theorem witness_EchoCheckJudgesTheDrive_outcomes :
    let after := fun fails persist engine (e : TxEntry) p => gives (exec (.echoCheck false) { driving with
      cfg := { session.cfg with timing := { session.cfg.timing with persist } }
      line := { driving.line with echoFails := fails, backoffReg := 1, quiet := .stopped }
      tx := { driving.tx with entries := [e], engine } }) p
    let trigger := fun d => ({ body := .trigger (.cancel 9) 0 d, begun := true } : TxEntry)
    let tried : TxEntry := { byeEntry with attempts := 11 }
    let kept := fun n (u : State) => u.tx.entries.map (·.attempts) = [n] ∧ u.counters.txDropped = 0
    let gone := fun detail (u : State) => u.tx.entries = [] ∧ u.events.queue.head?.map (·.detail) = some (some detail)
    after 1 false (.working .driving) (trigger 41) (kept 1) = true ∧ after 1 false (.working .driving) (trigger 40) (gone 7) = true ∧
      after 1 true (.working .driving) tried (kept 0) = true ∧ after 1 false (.working .driving) tried (gone 2) = true ∧
      after 2 false (.working .driving) (trigger 41) (kept 1) = true ∧ after 2 false (.working .driving) (trigger 40) (gone 7) = true ∧
      after 2 true (.working .driving) tried (kept 0) = true ∧ after 2 false (.working .driving) tried (gone 2) = true ∧
      after 1 false (.suspending .driving) tried (fun u => u.tx.engine = .suspended ∧ u.node.leaveDue) = true := by decide

/-- R141 with a window of 4 bytes: bit 71 is within it and bit 72 is late; the start byte ends before bit 40. -/
theorem witness_CollisionJamsAndBacksOff :
    let s : State := { driving with
      cfg := { session.cfg with timing := { session.cfg.timing with window := 4 } }
      line := { driving.line with echoFails := 2 } }
    let after := fun bit p => gives (exec (.collision bit) s) p
    s.line.drive = .driving levelBurst 0 ∧ 72 < levelBurst.lineBits ∧
      after 39 (·.line.echoFails = 0) = true ∧ after 40 (·.line.echoFails = 2) = true ∧
      after 71 (·.line.drive = .jamming 104 false) = true ∧ after 72 (·.line.drive = .jamming 105 true) = true := by decide

/-- The end of a jam: no slots drawn and one; the last attempt with and without persist; late; a TRIGGER at its deadline and one
bit time before it. -/
theorem witness_CollisionJamsAndBacksOff_report :
    let s := fun late persist (e : TxEntry) reg => ({ queued .driving [e] with
      cfg := { session.cfg with timing := { session.cfg.timing with persist } }
      line := { driving.line with drive := .jamming 104 late, backoffReg := reg } } : State)
    let after := fun late persist e reg p => gives (exec .jamEnd (s late persist e reg)) p
    let tried := fun n => { levelEntry with attempts := n }
    let trigger := fun d => ({ body := .trigger (.cancel 9) 0 d, begun := true } : TxEntry)
    let detail := fun (u : State) n => u.events.queue.map (·.detail) = [some n] ∧ u.tx.engine = .idle
    ((s true true levelEntry 1).line.drive = .jamming 104 true ∧ (s true true levelEntry 1).line.receiveOpen = true ∧
      (s true true levelEntry 1).tx.entries = [levelEntry] ∧ (s true true levelEntry 1).tx.engine = .working .driving ∧
      ([] : List TxEntry).length < 8) ∧
      after false false levelEntry 0x3333 (fun u => u.tx.engine = .working .defer ∧ u.line.wait = .none) = true ∧
      after false false levelEntry 0x4555 (fun u => u.tx.engine = .working .backoff ∧ u.line.wait = .running 232) = true ∧
      after false false (tried 10) 1 (·.tx.entries.map (·.attempts) = [11]) = true ∧
      after false true (tried 11) 1 (·.tx.entries.map (·.attempts) = [0]) = true ∧
      after false false (tried 11) 1 (detail · 2) = true ∧ after true true levelEntry 1 (detail · 1) = true ∧
      after false true (trigger 104) 1 (detail · 7) = true ∧ after true true (trigger 104) 1 (detail · 1) = true ∧
      after false true (trigger 105) 1 (·.tx.entries.map (·.attempts) = [1]) = true := by decide

/-- The end of a jam after the window: a page 0 with its last page behind it and a BYE, in JOINING with a blocking JOIN, a LEVEL
pending, and with and without a remembered group; and a BYE in SUSPENDING. -/
theorem witness_CollisionJamsAndBacksOff_drops :
    let s := fun remembered engine entries pending => ({ session with
      line := { driving.line with drive := .jamming 104 true }
      node := { state := .joining }, port := { ready := false, blocking := .join }
      announce := { state := .begun, remembered }
      sender := { session.sender with pending }
      tx := { session.tx with entries, engine } } : State)
    let group := [{ groupPage .first 0 with begun := true, sequence := some 73 }, groupPage .last 1, { byeEntry with begun := false }]
    let after := fun remembered engine entries pending p => gives (exec .jamEnd (s remembered engine entries pending)) p
    TxEntry.LeavesBehind { groupPage .first 0 with begun := true, sequence := some 73 }
        [groupPage .last 1, { byeEntry with begun := false }] [{ byeEntry with begun := false }] ∧
      after false (.working .driving) group (some true) (fun u => u.tx.entries.map (·.body) = [.bye, .level [] true] ∧
        u.announce = {} ∧ u.port.ready ∧ u.node.window = some 104 ∧ u.tx.engine = .working .defer) = true ∧
      after true (.working .driving) group none (fun u => u.tx.entries.map (·.isPage) = [false, true] ∧
        u.announce = { state := .queued } ∧ u.port.ready) = true ∧
      after false (.suspending .driving) [byeEntry] none (fun u => u.tx.engine = .suspended ∧ u.node.leaveDue ∧
        u.port.ready = false) = true :=
  ⟨⟨[groupPage .last 1], rfl, by decide, by decide, by decide, fun _ p h => by cases h; rfl⟩, by decide, by decide, by decide⟩

/-- A LEVEL, a BYE and a lone page driven to their end; the Receive FIFO with three bursts and with four. -/
theorem witness_AttemptCompletes :
    let s := fun e n => ({ queued .driving [e] with
      line := driving.line, fifo := List.replicate n (heard 2 false .bye)
      node := { state := .joining }, port := { ready := false, blocking := .join } } : State)
    let after := fun e n p => gives (exec .attemptCompletes (s e n)) p
    (s levelEntry 3).line.drive = .driving levelBurst 0 ∧ (s levelEntry 3).tx.entries = [levelEntry] ∧
      ([] : List TxEntry).length < 8 ∧
      (s levelEntry 3).tx.engine = .working .driving ∧ (s levelEntry 3).line.receiveOpen = true ∧
      (s levelEntry 3).announce = {} ∧
      after levelEntry 3 (fun u => u.fifo.length = 4 ∧ u.sender.refresh = some u.now) = true ∧
      after levelEntry 4 (fun u => u.fifo.length = 4 ∧ u.counters.rxOverruns = 1) = true ∧
      after byeEntry 0 (·.node.leaveDue) = true ∧
      after pageEntry 0 (fun u => u.node.window = some u.now ∧ u.port.ready) = true := by decide

/-- A FIRST page with its LAST one behind it, and the LAST page, working and SUSPENDING, with a blocking JOIN; the LAST page with a
remembered group; and a BYE with a LEVEL pending and a group waiting. -/
theorem witness_AttemptCompletes_groups :
    let begun := fun e : TxEntry => { e with begun := true, sequence := some 73 }
    let after := fun engine entries announce pending p => gives (exec .attemptCompletes { session with
      line := driving.line, node := { state := .joining }, port := { ready := false, blocking := .join }, announce
      sender := { session.sender with pending }, tx := { session.tx with entries, engine } }) p
    let first := [begun (groupPage .first 0), groupPage .last 1]
    let last := [begun (groupPage .last 1)]
    let stays := fun engine (u : State) => u.tx.engine = engine ∧ u.announce = { state := .begun } ∧ u.port.blocking = .join
    let ended := fun engine (u : State) => u.tx.engine = engine ∧ u.announce = { holdOff := some u.now } ∧ u.port.ready
    after (.working .driving) first { state := .begun } none (stays (.working .defer)) = true ∧
      after (.suspending .driving) first { state := .begun } none (stays (.suspending .defer)) = true ∧
      after (.working .driving) last { state := .begun } none (ended .idle) = true ∧
      after (.suspending .driving) last { state := .begun } none (ended .suspended) = true ∧
      after (.working .driving) last { state := .begun, remembered := true } none (fun u =>
        u.announce = { state := .queued } ∧ u.tx.engine = .working .defer ∧ u.port.ready) = true ∧
      after (.working .driving) [byeEntry] { state := .queued, waiting := true } (some true) (fun u =>
        u.tx.entries.map (·.isPage) = [false, true] ∧ u.sender.pending = none ∧ u.announce.waiting = false) = true := by decide

/-- A LEVEL of a peer in each link state, with a declared channel and another. -/
theorem witness_PeerLevelIsApplied :
    let s := fun link => withPeer link [heard 2 false (.level [(3, 9), (4, -32768)])]
    let after := fun link p => gives (exec .applyBurst (s link)) p
    (s .present).inReset = false ∧ (s .present).merge.pass = none ∧ (s .present).peers.length = 15 ∧
      (s .present).cfg.station ≠ 2 ∧
      (s .present).fifo = [⟨⟨2, 3, .ease, true, .level [(3, 9), (4, -32768)]⟩, 100, false⟩] ∧
      ([(3, 9), (4, -32768)] : List (Nat × Int)).Pairwise (fun a b => a.1 < b.1) ∧
      ((s .lost).peerAt 2).link = .lost ∧ ((s .lost).peerAt 2).forget = some 0 ∧ (s .lost).events.queue.length < 32 ∧
      (s .absent).node.state = .active ∧
      after .present (fun u => (u.peerAt 2).undeclared = 1 ∧ (u.peerAt 2).gaps = 4) = true ∧
      after .holding (fun u => (u.peerAt 2).undeclared = 1) = true ∧
      after .lost (fun u => (u.peerAt 2).link = .holding ∧ (u.peerAt 2).gaps = 0 ∧
        u.events.queue.head?.map (·.kind) = some .peerReturned) = true ∧
      after .absent (fun u => (u.peerAt 2).link = .absent ∧ u.sources.map (·.held) = [.valid 5] ∧
        u.announce.state ≠ .none) = true := by decide

/-- A re-announce request in each case of R105: a group that drives at once, one that waits in DEFER, one that waits for places, one
remembered behind a begun group and in the hold-off, one absorbed; and a listener and a LEAVING node, which take none. -/
theorem witness_PeerLevelIsApplied_announce :
    let s := fun announce entries quiet => ({ withPeer .absent [heard 2 false (.level [])] with
      line := { session.line with quiet }, announce
      tx := { session.tx with entries, engine := if entries = [] then .idle else .working .defer } } : State)
    let after := fun (s : State) pages engine announce => gives (exec .applyBurst s) fun u =>
      u.announce = announce ∧ u.tx.engine = engine ∧ (u.tx.entries.filter (·.isPage)).length = pages
    after (s {} [] .ended) 1 (.working .driving) { state := .begun } = true ∧
      after (s {} [] .stopped) 1 (.working .defer) { state := .queued } = true ∧
      after (s {} (List.replicate 7 byeEntry) .ended) 1 (.working .defer) { state := .queued } = true ∧
      after (s {} (List.replicate 8 byeEntry) .ended) 0 (.working .defer) { state := .queued, waiting := true } = true ∧
      after (s { holdOff := some 0 } [] .ended) 0 .idle { holdOff := some 0, remembered := true } = true ∧
      after (s { state := .begun } [] .ended) 0 .idle { state := .begun, remembered := true } = true ∧
      after (s { state := .queued } [] .ended) 0 .idle { state := .queued } = true ∧
      after { s {} [] .ended with cfg := listening.cfg } 0 .idle {} = true ∧
      after { s {} [] .ended with node := { state := .leaving } } 0 .idle {} = true := by decide +kernel

/-- A TRIGGER of two items, the second cancelling the first, and of one, from this node and from a peer in each link state. -/
theorem witness_TriggerIsApplied :
    let item : TriggerItem := .start 12 7 0 255 1 4
    let s := fun link f => ({ withPeer link [f] with store := oneProfile .once } : State)
    let after := fun link f p => gives (exec .applyBurst (s link f)) p
    let arms := fun source (u : State) => u.players.head? = some (some (player .armed source 7 1 10100 0 0 8))
    let raised := fun (u : State) => u.events.queue.head?.map (fun r => (r.kind, r.detail))
    (s .lost (heard 2 false (.trigger [item]))).inReset = false ∧ session.merge.pass = none ∧ session.peers.length = 15 ∧
      ((s .lost (heard 2 false .bye)).peerAt 2).forget = some 0 ∧
      after .present (heard 1 true (.trigger [item])) (arms 1) = true ∧
      after .present (heard 2 false (.trigger [item])) (arms 2) = true ∧
      after .holding (heard 2 false (.trigger [item, .cancel 7])) (·.players = List.replicate 8 none) = true ∧
      after .lost (heard 2 false (.trigger [item])) (fun u => arms 2 u ∧ raised u = some (.peerReturned, none)) = true ∧
      after .absent (heard 2 false (.trigger [item, .cancel 7])) (fun u => u.players = List.replicate 8 none ∧
        raised u = some (.triggerDropped, some 1) ∧ (u.peerAt 2).undeclared = 1) = true := by decide

/-- In a pass; with nothing held; source 0; the own number not sent by this node; an own LEVEL; a BYE. -/
theorem witness_OtherBurstsAreApplied :
    let s := fun f => withPeer .present [f]
    let after := fun f p => gives (exec .applyBurst (s f)) p
    session.inReset = false ∧ midPass.merge.pass ≠ none ∧ session.merge.pass = none ∧ session.fifo = [] ∧
      (s (heard 1 false .bye)).cfg.station = 1 ∧ (s (heard 1 false .bye)).node.state = .active ∧
      (s (heard 2 false .bye)).peers.length = 15 ∧ ((s (heard 2 false .bye)).peerAt 2).link ≠ .absent ∧
      after (heard 0 false .bye) (·.counters.badBursts = 1) = true ∧
      after (heard 1 false .bye) (·.node.state = .fault) = true ∧
      after (heard 1 true (.level [(0, 7), (15, -32768)])) (fun u => u.sender.lastRequest = some .ease ∧
        u.sender.lastSent.getD 0 none = some 7 ∧ u.sender.lastSent.getD 15 none = some (-32767)) = true ∧
      after (heard 2 false .bye) (fun u => (u.peerAt 2).link = .absent ∧ u.sources.map (·.held) = [.fading 5]) = true := by
  decide

/-- A duplicate station while this node drives its announce group, in JOINING with a blocking JOIN. -/
theorem witness_OtherBurstsAreApplied_fault :
    let s : State := { driving with
      fifo := [heard 1 false .bye], node := { state := .joining, window := some 3 }
      port := { ready := false, blocking := .join }, announce := { state := .begun, remembered := true, waiting := true }
      sender := { driving.sender with pending := some true } }
    gives (exec .applyBurst s) (fun u => u.tx = { s.tx with engine := .stopped } ∧ u.line.drive = .idle ∧
      u.line.quiet = .counting 0 ∧ u.sender = { s.sender with
        state := .silent, levelTimer := none, refresh := none, pending := none } ∧
      u.announce = { state := .begun } ∧ u.port = { ready := true } ∧ u.node = { state := .fault } ∧
      u.output.effective = .park ∧ u.output.factor = 4096) = true := by decide

/-- An own LEVEL sets the own entry of a produced channel, and of no other. -/
theorem witness_OtherBurstsAreApplied_own :
    let entry := fun channel => ({
      station := 1, channel, held := .fading 3, rank := 0, declared := true, lastUpdate := none } : SourceEntry)
    let s : State := { session with
      sources := [entry 1, entry 2], fifo := [heard 1 true (.level [(1, -32768), (2, 9)])] }
    s.cfg.station ≠ 0 ∧ s.sender.lastSent.length = 16 ∧
      ([(1, -32768), (2, 9)] : List (Nat × Int)).Pairwise (fun a b => a.1 < b.1) ∧
      gives (exec .applyBurst s) (·.sources.map (·.held) = [.valid (-32767), .fading 3]) = true := by decide

/-- Where the vote is settled: an own page and an own BYE, a duplicate in FAULT, and a BYE of an ABSENT peer; and the record of a
burst of source 0. -/
theorem witness_OtherBurstsAreApplied_settled :
    let s := fun f => ({ session with fifo := [f] } : State)
    let faulty : State := { tripped with fifo := [heard 1 false .bye], node := { state := .fault } }
    (session.output.ownRequest = session.formOwnRequest ∧ session.output.effective = session.formEffective ∧
      session.output.stage = .live ∧ session.node.state = .active) ∧
      (faulty.output.ownRequest = faulty.formOwnRequest ∧ faulty.output.effective = faulty.formEffective ∧
        faulty.output.stage = .parked) ∧
      (Payload.page 1 2 []).kind = 1 ∧ gives (exec .applyBurst (s (heard 1 true (.page 1 2 [])))) (· = session) = true ∧
      gives (exec .applyBurst (s (heard 1 true .bye))) (· = session) = true ∧
      gives (exec .applyBurst faulty) (· = { faulty with fifo := [] }) = true ∧ ((s (heard 2 false .bye)).peerAt 2).link = .absent ∧
      gives (exec .applyBurst (s (heard 2 false .bye))) (fun u => (u.peerAt 2).lastRequest = some .ease) = true ∧
      gives (exec .applyBurst (s (heard 0 false .bye))) (·.events.queue =
        [{ kind := .badBurst, count := 0, station := some 0, detail := some 4 }]) = true := by decide

/-- The session with station 2 heard and this assembly of its group in progress. -/
def gathering (assembly : Option Assembly) (payload : Payload) : State :=
  let s := withPeer .present [heard 2 false payload]
  { s with peers := s.peers.modify 1 fun p => { p with assembly } }

/-- A page 0 of two; of a group of three the page expected and one that is not; a page with no assembly. -/
theorem witness_PagesAreGathered :
    let a : Assembly := { expected := 3, next := 1, role := 2, decls := [(3, 0)], known := 2, startedAt := 0 }
    let after := fun assembly payload p => gives (exec .applyBurst (gathering assembly payload)) p
    let s := gathering (some a) (.page 1 3 [(4, 1)])
    s.inReset = false ∧ s.merge.pass = none ∧ s.peers.length = 15 ∧ s.cfg.station ≠ 2 ∧ (s.peerAt 2).assembly = some a ∧
      a.next + 1 ≠ a.expected ∧ s.events.queue.length < 32 ∧
      after none (.page0 2 4 0 []) (fun u => (u.peerAt 2).assembly.map (·.expected) = some 2) = true ∧
      after (some a) (.page 1 3 [(4, 1)]) (fun u => (u.peerAt 2).assembly.map (·.decls) = some [(3, 0), (4, 1)]) = true ∧
      after (some a) (.page 2 3 []) (fun u => (u.peerAt 2).assembly = none ∧ u.counters.badBursts = 1) = true ∧
      after (some a) (.page 1 2 []) (·.counters.badBursts = 1) = true ∧
      after none (.page 1 2 []) (·.counters.badBursts = 1) = true := by decide

/-- Station 15 is heard for the first time, with the channels and ranks at their bounds and past them, knowing this node and not;
roles 5 and 6. -/
theorem witness_GroupCompletes :
    let decls : List Declaration := [(0, 1), (15, 8), (16, 0), (0, 7)]
    let s := fun role known => ({ session with fifo := [heard 15 false (.page0 1 role known decls)] } : State)
    let after := fun role known p => gives (exec .applyBurst (s role known)) p
    (s 5 2).inReset = false ∧ (s 5 2).merge.pass = none ∧ (s 5 2).peers.length = 15 ∧ (s 5 2).cfg.station = 1 ∧
      ((s 5 2).peerAt 15).link = .absent ∧ (2 : BitVec 16).getLsbD 1 = true ∧
      (0 : BitVec 16).getLsbD 1 = false ∧ (s 5 0).node.state = .active ∧ (s 5 2).events.queue.length + 1 ≤ 32 ∧
      (s 5 2).output.ownRequest = (s 5 2).formOwnRequest ∧
      after 5 2 (fun u => (u.peerAt 15).role = some .aux ∧ (u.peerAt 15).declared = [(0, 7), (15, 7)] ∧
        u.announce.state = .none) = true ∧
      after 6 0 (fun u => (u.peerAt 15).role = none ∧ u.announce.state ≠ .none) = true := by decide

/-- Station 2 completes its group of two again: its FADING entry of channel 3 is kept with the new rank, channel 0 is new and
stands at the rank this node declares for it. -/
theorem witness_GroupCompletes_rejoin :
    let a : Assembly := { expected := 2, next := 1, role := 2, decls := [(0, 0)], known := 2, startedAt := 0 }
    let s := gathering (some a) (.page 1 2 [(3, 4)])
    let t : State := { s with sources := s.sources.map SourceEntry.fade }
    (t.peerAt 2).assembly = some a ∧ a.next + 1 = a.expected ∧ (t.peerAt 2).link ≠ .absent ∧
      gives (exec .applyBurst t) (fun u =>
        u.sources.map (fun e => (e.channel, e.held, e.rank)) = [(3, .fading 5, 4), (0, .empty, 0)] ∧
        u.events.queue.take 2 = [
          { kind := .peerJoined, count := 0, station := some 2, detail := some 1, value := some 2 },
          { kind := .rankConflict, count := 0, station := some 2, second := some 1, channel := some 0,
            value := some 0 }]) = true := by decide

end Sys2Proof.Tests
end

section
/-! Proofs of the statements of 00_scope.md: the division of the cue arithmetic (R1) and the order of the votes (R2). -/

namespace Sys2Proof.Machine

/-! ### Division in the cue arithmetic (R1) -/

theorem roundDiv_natCast (n d : Nat) : roundDiv n d = ((n + d / 2) / d : Nat) := by
  simp [roundDiv]

theorem roundDiv_zero (d : Nat) : roundDiv 0 d = 0 := by
  have half : d / 2 / d = 0 := Nat.div_eq_zero_iff.2 (by omega)
  simp [roundDiv, half]

/-- The sign is taken apart from the magnitude, so both signs round alike. -/
theorem roundDiv_neg (x : Int) (d : Nat) : roundDiv (-x) d = -roundDiv x d := by
  rcases lt_trichotomy x 0 with neg | rfl | pos
  · simp [roundDiv, neg, neg.le]
  · simp [roundDiv_zero]
  · simp [roundDiv, pos, pos.le]

theorem roundDiv_eq_sign_mul (x : Int) (d : Nat) :
    roundDiv x d = x.sign * (((x.natAbs + d / 2) / d : Nat) : Int) := by
  rcases lt_trichotomy x 0 with neg | rfl | pos
  · simp [roundDiv, neg, Int.sign_eq_neg_one_of_neg neg]
  · simp [roundDiv_zero]
  · simp [roundDiv, pos.le, Int.sign_eq_one_of_pos pos]

/-- What a magnitude rounds to lies at most half a divisor above it and less than half a divisor below it: the window is open on
the side where a tie would round towards zero. -/
theorem mul_roundDiv_natCast_window (n : Nat) {d : Nat} (pos : 0 < d) (even : d % 2 = 0) :
    2 * (d * roundDiv n d - n) ≤ d ∧ 2 * (n - d * roundDiv n d) < d := by
  have divMod := Nat.div_add_mod (n + d / 2) d
  have rest := Nat.mod_lt (n + d / 2) pos
  rw [roundDiv_natCast, ← Nat.cast_mul]
  omega

/-- Settles O15: the window of a magnitude, carried to both signs. -/
theorem divisionRoundsToNearest : Obligations.DivisionRoundsToNearest := by
  intro x d pos even
  refine ⟨roundDiv_eq_sign_mul x d, ?_⟩
  obtain ⟨n, rfl | rfl⟩ := x.eq_nat_or_neg <;> have window := mul_roundDiv_natCast_window n pos even
  · omega
  · rw [roundDiv_neg, Int.mul_neg]; omega

/-! ### The votes (R2, R67, R68) -/

theorem requestWhile_le (cond : Bool) (r m : Mode) :
    (requestWhile cond r).code ≤ m.code ↔ (cond = true → r.code ≤ m.code) := by
  cases cond <;> simp [requestWhile, Mode.live_le]

/-- An absent request restricts nothing. -/
theorem Mode.getD_live_le (request : Option Mode) (m : Mode) :
    (request.getD .live).code ≤ m.code ↔ ∀ r, request = some r → r.code ≤ m.code := by
  cases request <;> simp [Mode.live_le]

theorem Link.heard_iff (l : Link) : l.heard = true ↔ l = .present ∨ l = .holding := by
  cases l <;> simp [Link.heard]

/-- What a peer's vote restricts, by its link; the SELF row and an ABSENT station restrict nothing (R67). -/
theorem PeerRecord.vote_le (p : PeerRecord) (m : Mode) :
    p.vote.code ≤ m.code ↔ (p.self = false →
      (p.link = .present ∨ p.link = .holding → ∀ r, p.lastRequest = some r → r.code ≤ m.code) ∧
      (p.link = .lost → Mode.ease.code ≤ m.code ∧ ∀ r, p.lastRequest = some r → r.code ≤ m.code)) := by
  cases self : p.self
  case true => simp [PeerRecord.vote, self, Mode.live_le]
  case false =>
    cases link : p.link
    case absent => simp [PeerRecord.vote, self, link, Mode.live_le]
    case present => simp [PeerRecord.vote, self, link, Mode.getD_live_le]
    case holding => simp [PeerRecord.vote, self, link, Mode.getD_live_le]
    case lost => simp [PeerRecord.vote, self, link, Mode.worse_le, Mode.getD_live_le, and_comm]

theorem State.roleCounted_iff (s : State) (r : Role) : s.roleCounted r = true ↔
    (∃ p ∈ s.peers, p.self = false ∧ (p.link = .present ∨ p.link = .holding) ∧ p.role = some r) ∨
      (s.cfg.station ≠ 0 ∧ s.cfg.role = some r) := by
  simp [State.roleCounted, State.listener, Link.heard_iff, and_assoc]

theorem State.roleMissing_iff (s : State) : s.roleMissing = true ↔
    ∃ r ∈ s.cfg.required,
      ¬(∃ p ∈ s.peers, p.self = false ∧ (p.link = .present ∨ p.link = .holding) ∧ p.role = some r) ∧
        ¬(s.cfg.station ≠ 0 ∧ s.cfg.role = some r) := by
  simp only [State.roleMissing, List.any_eq_true, Bool.not_eq_true', ← Bool.not_eq_true, State.roleCounted_iff, not_or]

/-- The effective mode is the least bound of its voters: the own request, every peer and the required roles (R67). -/
theorem State.formEffective_le (s : State) (m : Mode) : s.formEffective.code ≤ m.code ↔
    s.output.ownRequest.code ≤ m.code ∧ (s.roleMissing = true → Mode.ease.code ≤ m.code) ∧
      ∀ p ∈ s.peers, p.vote.code ≤ m.code := by
  rw [State.formEffective, Mode.worse_le, foldl_worse_le, requestWhile_le, and_assoc, and_comm (a := ∀ p ∈ s.peers, _)]

/-- Settles O28: a bound of the effective mode is a bound of each voter, and each voter's bound is what R67 and R68 say of it. -/
theorem effectiveModeIsTheMostRestrictive : Obligations.EffectiveModeIsTheMostRestrictive := by
  intro s m
  rw [State.formEffective_le, State.roleMissing_iff]
  simp only [PeerRecord.vote_le]

end Sys2Proof.Machine
end

section
/-! Proofs of the statements of 01_cue_channels_and_the_source_table.md. -/

namespace Sys2Proof.Machine

/-! ### The keys of the Source Table and of the Player Bank (R3, R28) -/

theorem filterMap_sublist_filterMap {α β : Type} {f g : α → Option β} (h : ∀ a b, f a = some b → g a = some b)
    (l : List α) : List.Sublist (l.filterMap f) (l.filterMap g) := by
  induction l with
  | nil => exact .slnil
  | cons a l ih =>
    simp only [List.filterMap_cons]
    cases hf : f a with
    | none => cases g a with
      | none => exact ih
      | some b => exact ih.cons b
    | some b => rw [h a b hf]; exact ih.cons_cons b

theorem nodup_filterMap_set {α β : Type} {f : α → Option β} {a : α} {l : List α}
    (new : ∀ b, f a = some b → b ∉ l.filterMap f) (h : (l.filterMap f).Nodup) (n : Nat) :
    ((l.set n a).filterMap f).Nodup := by
  induction l generalizing n with
  | nil => exact List.nodup_nil
  | cons x l ih =>
    simp only [List.filterMap_cons] at new h
    cases n with
    | zero =>
      rw [List.set_cons_zero, List.filterMap_cons]
      cases hx : f x <;> cases ha : f a <;> simp_all
    | succ n =>
      rw [List.set_cons_succ, List.filterMap_cons]
      cases hx : f x with
      | none => simp only [hx] at new h ⊢; exact ih new h n
      | some y =>
        simp only [hx, List.nodup_cons, List.mem_cons, not_or] at new h ⊢
        refine ⟨fun hy => ?_, ih (fun b hb => (new b hb).2) h.2 n⟩
        obtain ⟨z, hz, hzy⟩ := List.mem_filterMap.1 hy
        rcases List.mem_or_eq_of_mem_set hz with hz | rfl
        · exact h.1 (List.mem_filterMap.2 ⟨z, hz, hzy⟩)
        · exact (new y hzy).1 rfl

def SourceEntry.key (e : SourceEntry) : Nat × Nat := (e.station, e.channel)

def Player.key (p : Player) : Nat × Nat := (p.source, p.event)

/-- The keys of the players that are not FREE. -/
def playerKeys (players : List (Option Player)) : List (Nat × Nat) := players.filterMap (Option.map Player.key)

theorem State.sourceLaw_iff (s : State) : s.SourceLaw ↔ (s.sources.map SourceEntry.key).Nodup := by
  simp [State.SourceLaw, List.Nodup, List.pairwise_map, SourceEntry.key]

theorem State.playerLaw_iff (s : State) : s.PlayerLaw ↔ s.players.length ≤ 8 ∧ (playerKeys s.players).Nodup := by
  simp only [State.PlayerLaw, playerKeys, List.Nodup, List.pairwise_filterMap, Option.map_eq_some_iff]
  refine and_congr_right fun _ => iff_of_eq (congrArg (List.Pairwise · s.players) ?_)
  funext a b
  simp only [Player.key, eq_iff_iff]
  constructor
  · rintro h _ ⟨p, hp, rfl⟩ _ ⟨q, hq, rfl⟩ he
    exact h p q hp hq (by simpa using he)
  · intro h p q hp hq he
    exact h _ ⟨p, hp, rfl⟩ _ ⟨q, hq, rfl⟩ (by simpa using he)

/-- What removes entries or rewrites them under their keys leaves the keys without repeats. -/
theorem sourceKeys_filterMap {f : SourceEntry → Option SourceEntry} (h : ∀ e e', f e = some e' → e'.key = e.key)
    {table : List SourceEntry} (distinct : (table.map SourceEntry.key).Nodup) :
    ((table.filterMap f).map SourceEntry.key).Nodup := by
  rw [List.map_filterMap]
  rw [← List.filterMap_eq_map] at distinct
  refine distinct.sublist (filterMap_sublist_filterMap (fun e k hk => ?_) table)
  obtain ⟨e', he, rfl⟩ := Option.map_eq_some_iff.1 hk
  exact congrArg some (h e e' he).symm

theorem sourceKeys_map {f : SourceEntry → SourceEntry} (h : ∀ e, (f e).key = e.key) (table : List SourceEntry) :
    (table.map f).map SourceEntry.key = table.map SourceEntry.key := by
  simp [h]

theorem SourceEntry.undeclare_key {e e' : SourceEntry} (h : e.undeclare = some e') : e'.key = e.key := by
  cases held : e.held <;> simp [SourceEntry.undeclare, SourceEntry.fade, held] at h <;> subst h <;> rfl

theorem SourceEntry.fade_key (e : SourceEntry) : e.fade.key = e.key := by
  cases held : e.held <;> simp [SourceEntry.fade, held, SourceEntry.key]

theorem SourceEntry.fadeStage_key {step : Nat} {e e' : SourceEntry} (h : e.fadeStage step = some e') : e'.key = e.key := by
  simp only [SourceEntry.fadeStage] at h
  (repeat' split at h) <;> cases h <;> rfl

theorem setValid_keys (station channel : Nat) (v : Int) (count : Count) (table : List SourceEntry) :
    (setValid station channel v count table).map SourceEntry.key = table.map SourceEntry.key :=
  sourceKeys_map (fun e => by split <;> rfl) table

theorem fadeStation_keys (station : Nat) (table : List SourceEntry) :
    (fadeStation station table).map SourceEntry.key = table.map SourceEntry.key :=
  sourceKeys_map (fun e => by split; exacts [e.fade_key, rfl]) table

/-- A declared set that names no channel twice replaces the one before it: what is kept has its key, and what is created has
a key that no entry had. -/
theorem redeclare_keys {station : Nat} {decls : List Declaration} {table : List SourceEntry}
    (channels : (decls.map (·.1)).Nodup) (distinct : (table.map SourceEntry.key).Nodup) :
    ((redeclare station decls table).map SourceEntry.key).Nodup := by
  have kept_keys : ∀ e e' : SourceEntry, (if e.station = station then
      match rankIn decls e.channel with
      | some rank => some { e with rank, declared := true }
      | none => e.undeclare
    else some e) = some e' → e'.key = e.key := by
    intro e e' h
    split at h
    · split at h
      · cases h; rfl
      · exact SourceEntry.undeclare_key h
    · cases h; rfl
  simp only [redeclare, List.map_append, List.nodup_append']
  refine ⟨sourceKeys_filterMap kept_keys distinct, ?_, ?_⟩
  · have sub := (List.filter_sublist (p := fun d => !table.any (·.keyed station d.1)) (l := decls)).map (·.1)
    refine List.Nodup.of_map Prod.snd ?_
    simpa [List.map_map, Function.comp_def, SourceEntry.key, SourceEntry.fresh] using channels.sublist sub
  · intro k kept created
    obtain ⟨e', he', rfl⟩ := List.mem_map.1 kept
    obtain ⟨e, he, hee'⟩ := List.mem_filterMap.1 he'
    obtain ⟨f, hf, hfk⟩ := List.mem_map.1 created
    obtain ⟨d, hd, rfl⟩ := List.mem_map.1 hf
    have hk := kept_keys e e' hee'
    simp only [SourceEntry.key, SourceEntry.fresh, Prod.mk.injEq] at hfk hk
    have absent := (List.mem_filter.1 hd).2
    simp only [SourceEntry.keyed, Bool.not_eq_true', List.any_eq_false, Bool.and_eq_true, beq_iff_eq, not_and] at absent
    exact absent e he (by omega) (by omega)

theorem State.ownDeclarations_channels (s : State) : (s.ownDeclarations.map (·.1)).Nodup := by
  simp only [State.ownDeclarations, State.produced, List.map_map, Function.comp_def, List.map_id']
  exact List.nodup_range.filter _

theorem declaredSet_channels (decls : List Declaration) : ((declaredSet decls).map (·.1)).Nodup := by
  rw [declaredSet, List.map_filterMap]
  have channels : (List.range 16).Nodup := List.nodup_range
  rw [← List.map_id (List.range 16), ← List.filterMap_eq_map] at channels
  refine channels.sublist (filterMap_sublist_filterMap (fun c k hk => ?_) _)
  obtain ⟨d, hd, rfl⟩ := Option.map_eq_some_iff.1 hk
  obtain ⟨r, _, rfl⟩ := Option.map_eq_some_iff.1 hd
  rfl

/-- What frees players or rewrites them under their keys leaves the keys without repeats. -/
theorem playerKeys_map {f : Option Player → Option Player} (free : f none = none)
    (h : ∀ p p', f (some p) = some p' → p'.key = p.key) (players : List (Option Player)) :
    List.Sublist (playerKeys (players.map f)) (playerKeys players) := by
  simp only [playerKeys, List.filterMap_map]
  refine filterMap_sublist_filterMap (fun q k hk => ?_) players
  obtain ⟨p', hp', rfl⟩ := Option.map_eq_some_iff.1 hk
  cases q with
  | none => rw [free] at hp'; cases hp'
  | some p => exact congrArg some (h p p' hp').symm

theorem Player.cancelled_key {p p' : Player} (h : p.cancelled = some p') : p'.key = p.key := by
  cases state : p.state <;> simp [Player.cancelled, state] at h <;> subst h <;> rfl

theorem Player.orphaned_key (st : Store) (source : Nat) (p : Player) : (p.orphaned st source).key = p.key := by
  simp only [Player.orphaned]; split <;> rfl

theorem Player.started_key (expiry : Nat) (p : Player) : (p.started expiry).key = p.key := by
  simp only [Player.started]; split <;> rfl

theorem Player.stepped_key {pr : Profile} {p p' : Player} (h : p.stepped pr = some p') : p'.key = p.key := by
  simp only [Player.stepped] at h
  (repeat' split at h) <;> cases h <;> rfl

theorem Player.faded_key {p p' : Player} (h : p.faded = some p') : p'.key = p.key := by
  simp only [Player.faded] at h
  (repeat' split at h) <;> cases h <;> rfl

theorem Player.after_key {st : Store} {p p' : Player} (h : p.after st = some p') : p'.key = p.key := by
  simp only [Player.after] at h
  split at h
  · cases h; rfl
  · cases h; rfl
  · obtain ⟨q, hq, hp'⟩ := Option.bind_eq_some_iff.1 h
    rw [Player.faded_key hp', Player.stepped_key hq]

/-! ### Operations that keep both keys -/

/-- From `s` to `u` neither table has come to hold a key twice. -/
structure KeysKept (s u : State) : Prop where
  sources : s.SourceLaw → u.SourceLaw
  players : s.PlayerLaw → u.PlayerLaw

theorem KeysKept.of_eq {s u : State} (sources : u.sources = s.sources) (players : u.players = s.players) : KeysKept s u :=
  ⟨fun h => by rwa [State.SourceLaw, sources], fun h => by rwa [State.PlayerLaw, players]⟩

theorem KeysKept.trans {s u v : State} (h : KeysKept s u) (h' : KeysKept u v) : KeysKept s v :=
  ⟨h'.sources ∘ h.sources, h'.players ∘ h.players⟩

theorem KeysKept.foldl {β : Type} {f : State → β → State} (h : ∀ s b, KeysKept s (f s b)) (l : List β) (s : State) :
    KeysKept s (l.foldl f s) := by
  induction l generalizing s with
  | nil => exact .of_eq rfl rfl
  | cons b l ih => exact (h s b).trans (ih (f s b))

/-- An operation on the Source Table alone. -/
theorem KeysKept.of_sources {s u : State} (players : u.players = s.players)
    (h : (s.sources.map SourceEntry.key).Nodup → (u.sources.map SourceEntry.key).Nodup) : KeysKept s u :=
  ⟨by rwa [State.sourceLaw_iff, State.sourceLaw_iff], fun h => by rwa [State.PlayerLaw, players]⟩

/-- An operation on the Player Bank alone, player by player. -/
theorem KeysKept.of_players {s u : State} (sources : u.sources = s.sources) {f : Option Player → Option Player}
    (players : u.players = s.players.map f) (free : f none = none)
    (h : ∀ p p', f (some p) = some p' → p'.key = p.key) : KeysKept s u := by
  refine ⟨fun h => by rwa [State.SourceLaw, sources], fun law => ?_⟩
  rw [State.playerLaw_iff] at law ⊢
  rw [players, List.length_map]
  exact ⟨law.1, law.2.sublist (playerKeys_map free h s.players)⟩

theorem State.revote_keysKept (s : State) : KeysKept s s.revote := .of_eq (by simp) (by simp)

theorem State.report_keysKept (s : State) (kind : EventKind) (station second channel detail : Option Nat)
    (value : Option Int) : KeysKept s (s.report kind station second channel detail value) := .of_eq rfl rfl

theorem State.mapPeer_keysKept (s : State) (x : Nat) (f : PeerRecord → PeerRecord) : KeysKept s (s.mapPeer x f) :=
  .of_eq (by simp) (by simp)

/-- Every player FREE. -/
theorem State.playerLaw_of_free {s : State} (h : s.players = freePlayers) : s.PlayerLaw := by
  rw [State.playerLaw_iff, h]; decide

theorem State.orphanPlayers_keysKept (s : State) (x : Nat) : KeysKept s (s.orphanPlayers x) :=
  .of_players (by simp) (State.orphanPlayers_players s x) rfl
    fun p p' h => by cases h; exact p.orphaned_key _ _

theorem State.discardDeclared_keysKept (s : State) (x : Nat) : KeysKept s (s.discardDeclared x) :=
  KeysKept.trans (u := { s with sources := redeclare x [] s.sources })
    (.of_sources rfl (redeclare_keys (decls := []) List.nodup_nil)) (State.orphanPlayers_keysKept _ x)

theorem State.createOwnEntries_keysKept (s : State) : KeysKept s s.createOwnEntries :=
  .of_sources rfl (redeclare_keys s.ownDeclarations_channels)

theorem State.completeLeave_keysKept (s : State) : KeysKept s s.completeLeave :=
  ⟨fun _ => by rw [State.sourceLaw_iff]; simp [State.completeLeave],
    fun _ => State.playerLaw_of_free (by simp [State.completeLeave])⟩

theorem State.losePeer_keysKept (s : State) (x : Nat) : KeysKept s (s.losePeer x) := by
  simp only [State.losePeer]
  split
  · split
    · exact .of_eq rfl rfl
    · refine .trans (.trans (.of_sources ?_ ?_) (State.orphanPlayers_keysKept _ x)) (State.revote_keysKept _)
      · simp
      · simp [fadeStation_keys]
  · exact .of_eq rfl rfl

theorem State.forgetPeer_keysKept (s : State) (x : Nat) : KeysKept s (s.forgetPeer x) := by
  simp only [State.forgetPeer]
  split
  · split
    · exact .of_eq rfl rfl
    · exact .trans (.trans (s.mapPeer_keysKept x _) (State.discardDeclared_keysKept _ x))
        (.trans (State.report_keysKept ..) (State.revote_keysKept _))
  · exact .of_eq rfl rfl

/-! ### A burst applied keeps the keys (R8, R9, R29 to R33, R99 to R102, R110) -/

/-- A peer whose group has completed, with its records, before a re-announce is asked for (R100 to R102). -/
def State.groupTaken (s : State) (x : Nat) (a : Assembly) : State :=
  let decls := declaredSet a.decls
  let role := Role.ofCode a.role
  State.reportConflicts (State.report
    { s.mapPeer x (PeerRecord.completed role decls s.now) with sources := redeclare x decls s.sources }
    .peerJoined (some x) none none (some (if (s.peerAt x).link = .absent then 0 else 1)) (some (roleCode role))) x decls

theorem State.completeGroup_eq (s : State) (x : Nat) (a : Assembly) : s.completeGroup x a =
    if a.known.getLsbD s.cfg.station then s.groupTaken x a else (s.groupTaken x a).requestAnnounce := by
  simp [State.completeGroup, State.groupTaken]

theorem State.completeGroup_sources (s : State) (x : Nat) (a : Assembly) :
    (s.completeGroup x a).sources = redeclare x (declaredSet a.decls) s.sources := by
  rw [State.completeGroup_eq]; split <;> simp [State.groupTaken]

theorem State.completeGroup_keysKept (s : State) (x : Nat) (a : Assembly) : KeysKept s (s.completeGroup x a) := by
  refine .of_sources (by simp) fun h => ?_
  rw [State.completeGroup_sources]
  exact redeclare_keys (declaredSet_channels a.decls) h

theorem State.takeAssembly_keysKept (s : State) (x : Nat) (a : Assembly) : KeysKept s (s.takeAssembly x a) := by
  simp only [State.takeAssembly]
  split
  · exact s.completeGroup_keysKept x a
  · exact .of_eq (by simp) (by simp)

theorem State.applyPage_keysKept (s : State) (x index count : Nat) (decls : List Declaration) :
    KeysKept s (s.applyPage x index count decls) := by
  simp only [State.applyPage]
  split
  · split
    · exact s.takeAssembly_keysKept x _
    · exact .of_eq (by simp) (by simp)
  · exact .of_eq (by simp) (by simp)

theorem State.applyBye_keysKept (s : State) (x : Nat) : KeysKept s (s.applyBye x) := by
  simp only [State.applyBye]
  split
  · exact .of_eq rfl rfl
  · exact .trans (.trans (s.mapPeer_keysKept x _) (State.discardDeclared_keysKept _ x)) (State.report_keysKept ..)

theorem State.applyPair_keysKept (x : Nat) (s : State) (pair : Nat × Int) : KeysKept s (s.applyPair x pair) := by
  simp only [State.applyPair]
  split
  · exact .of_sources rfl fun h => by rwa [setValid_keys]
  · exact .of_eq (by simp) (by simp)

theorem State.applyOwnLevel_keysKept (s : State) (request : Mode) (pairs : List (Nat × Int)) :
    KeysKept s (s.applyOwnLevel request pairs) := by
  refine .of_sources rfl fun h => ?_
  simp only [State.applyOwnLevel]
  generalize s.sources = table at h
  induction pairs generalizing table with
  | nil => exact h
  | cons p pairs ih =>
    rw [List.foldl_cons]
    refine ih _ ?_
    split
    · rwa [setValid_keys]
    · exact h

/-- A player armed under a key that no player has (R30, R32). -/
theorem State.setPlayer_keysKept {s : State} {p : Player} (new : p.key ∉ playerKeys s.players) (n : Nat) :
    KeysKept s (s.setPlayer n (some p)) := by
  refine ⟨id, fun law => ?_⟩
  rw [State.playerLaw_iff] at law ⊢
  rw [State.setPlayer_players, List.length_set]
  exact ⟨law.1, nodup_filterMap_set (fun k hk => by cases hk; exact new) law.2 n⟩

theorem applyStart_keysKept (source endInstant channel event profile amplitude priority lead : Nat) (s : State) :
    KeysKept s (applyStart source endInstant channel event profile amplitude priority lead s) := by
  simp only [applyStart]
  split
  · exact .of_eq rfl rfl
  split
  · exact .of_eq rfl rfl
  split
  · exact .of_eq rfl rfl
  rename_i fresh
  have new : (armed source endInstant channel event profile amplitude priority lead).key ∉ playerKeys s.players := by
    intro hk
    obtain ⟨q, hq, hqk⟩ := List.mem_filterMap.1 hk
    obtain ⟨p, rfl, hp⟩ := Option.map_eq_some_iff.1 hqk
    refine fresh (List.any_eq_true.2 ⟨some p, hq, ?_⟩)
    simpa [Player.matches, Player.key, armed] using hp
  split
  · exact s.setPlayer_keysKept new _
  split
  · exact .trans (.of_eq (by simp) (by simp)) (State.setPlayer_keysKept (s := s.reportDropped ..) new _)
  · exact .of_eq rfl rfl

theorem applyCancel_keysKept (source event : Nat) (s : State) : KeysKept s (applyCancel source event s) := by
  refine .of_players rfl rfl rfl fun p p' h => ?_
  dsimp only at h
  split at h
  · exact Player.cancelled_key h
  · cases h; rfl

theorem applyItem_keysKept (source endInstant : Nat) (s : State) (i : TriggerItem) :
    KeysKept s (applyItem source endInstant s i) := by
  cases i with
  | start => exact applyStart_keysKept ..
  | cancel => exact applyCancel_keysKept ..

theorem applyItems_keysKept (source endInstant : Nat) (items : List TriggerItem) (s : State) :
    KeysKept s (applyItems source endInstant items s) :=
  .foldl (applyItem_keysKept source endInstant) items s

theorem State.applyOwn_keysKept (s : State) (e : FifoEntry) : KeysKept s (s.applyOwn e) := by
  simp only [State.applyOwn]
  split
  · exact s.applyOwnLevel_keysKept _ _
  · exact applyItems_keysKept ..
  all_goals exact .of_eq rfl rfl

theorem State.applyContents_keysKept (s : State) (e : FifoEntry) : KeysKept s (s.applyContents e) := by
  simp only [State.applyContents]
  split
  · exact s.takeAssembly_keysKept _ _
  · exact s.applyPage_keysKept _ _ _ _
  · split
    · exact .of_eq (by simp) (by simp)
    · exact .foldl (State.applyPair_keysKept _) _ s
  · split
    · exact .of_eq (by simp) (by simp)
    · exact applyItems_keysKept ..
  · exact s.applyBye_keysKept _

theorem State.applyEntry_keysKept (s : State) (e : FifoEntry) : KeysKept s (s.applyEntry e) := by
  refine .trans ?_ (State.revote_keysKept _)
  split
  · exact .of_eq (by simp) (by simp)
  split
  · exact s.applyOwn_keysKept e
  split
  · exact .of_eq (by simp) (by simp)
  · exact .trans (.of_eq (by simp) (by simp)) (State.applyContents_keysKept (s.headerSteps e.burst) e)

theorem State.applyOldest_keysKept (s : State) : KeysKept s s.applyOldest := by
  simp only [State.applyOldest]
  split
  · exact .of_eq rfl rfl
  · refine .trans ?_ (State.applyEntry_keysKept _ _)
    exact .of_eq rfl rfl

/-! ### A pass keeps the keys (R11, R12, R34 to R37, R39) -/

theorem State.makeHeld_keysKept (s : State) (h : HeldChange) : KeysKept s (s.makeHeld h) := by
  cases h with
  | silence x => exact s.losePeer_keysKept x
  | forget x => exact s.forgetPeer_keysKept x
  | applyBurst => exact s.applyOldest_keysKept
  | leaveCompletion =>
    simp only [State.makeHeld]; split
    · exact s.completeLeave_keysKept
    · exact .of_eq rfl rfl
  | ownEntries => exact s.createOwnEntries_keysKept

theorem State.mergeChannels_keysKept (s : State) (expiry : Nat) : KeysKept s (s.mergeChannels expiry) := by
  refine .trans (u := { s with sources := fadeTable s.cfg.channels s.sources })
    (.of_sources rfl (sourceKeys_filterMap fun e e' => SourceEntry.fadeStage_key)) ?_
  refine .trans (u := { s with sources := fadeTable s.cfg.channels s.sources, players := startPlayers expiry s.players })
    (.of_players rfl rfl rfl fun p p' h => ?_) (.of_players rfl rfl rfl fun p p' h => Player.after_key h)
  cases h
  exact p.started_key expiry

theorem State.beginPass_keysKept (s : State) (order : HandOverOrder) : KeysKept s (s.beginPass order) :=
  .trans (u := s.countExpiry) (.of_eq rfl rfl)
    (.trans (State.mergeChannels_keysKept _ s.countExpiry.now) (.of_eq (by simp [State.beginPass]) rfl))

theorem State.stepFactor_keysKept (s : State) : KeysKept s s.stepFactor := by
  simp only [State.stepFactor]
  split
  · split
    · exact .of_eq rfl rfl
    · exact ⟨id, fun _ => State.playerLaw_of_free rfl⟩
  · split <;> exact .of_eq rfl rfl
  all_goals exact .of_eq rfl rfl

theorem State.handOver_keysKept (s : State) (p : Pass) : KeysKept s (s.handOver p) := by
  simp only [State.handOver]
  split
  · exact .trans s.stepFactor_keysKept (.of_eq (by simp) (by simp))
  · exact .trans (.of_eq (by simp) (by simp)) (State.stepFactor_keysKept (s.monitorPass p))

theorem State.finishPass_keysKept (s : State) : KeysKept s s.finishPass := by
  simp only [State.finishPass]
  split
  · exact .of_eq rfl rfl
  · refine .trans (.trans ?_ (State.handOver_keysKept _ _)) (.foldl State.makeHeld_keysKept _ _)
    exact .of_eq (by simp) (by simp)

/-! ### A command keeps the keys -/

theorem KeysKept.ite {c : Prop} [Decidable c] {s t u : State} (h : KeysKept s t) (h' : KeysKept s u) :
    KeysKept s (if c then t else u) := by
  split
  exacts [h, h']

theorem KeysKept.orHold {s t v : State} (h : HeldChange) (started : KeysKept s t) (made : KeysKept s v) :
    KeysKept s (t.orHold h v) := .ite (.trans started (.of_eq rfl rfl)) made

theorem KeysKept.unlessReset {s t v : State} (started : KeysKept s t) (made : KeysKept s v) :
    KeysKept s (t.unlessReset v) := .ite started made

theorem KeysKept.onPort {s t v : State} (started : KeysKept s t) (taken : KeysKept s v) : KeysKept s (t.onPort v) := by
  simp only [State.onPort]
  split
  · exact .trans started (.of_eq rfl rfl)
  · split
    exacts [taken, started]

theorem KeysKept.command {s t v : State} (started : KeysKept s t) (taken : KeysKept s v) : KeysKept s (t.command v) :=
  .onPort started (.ite taken (.trans started (.of_eq rfl rfl)))

theorem KeysKept.configCommand {s t v : State} (started : KeysKept s t) (taken : KeysKept s v) :
    KeysKept s (t.configCommand v) := .command started (.ite taken (.trans started (.of_eq rfl rfl)))

theorem KeysKept.answer {s t : State} (h : KeysKept s t) (r : Result) (data : List Byte) : KeysKept s (t.answer r data) :=
  .trans h (.of_eq rfl rfl)

theorem State.advance_keysKept (s : State) (t : Nat) : KeysKept s (s.advance t) := .of_eq rfl rfl

/-- JOIN of any node: it is JOINING with the receive path open, the register seeded and the sequence number 0 (R111, R138, R142). -/
def State.joinBegun (s : State) : State :=
  { s.enterNode .joining with
    line := { s.line with
      backoffReg := lfsrSeed s.cfg.seed s.cfg.station, echoFails := 0, receiveOpen := true
      quiet := if s.carrier then .stopped else .counting s.now }
    tx := { s.tx with sequence := 0 } }

/-- JOIN of a talking node: the SELF row stands, the engine waits for entries, and the operation blocks (R92, R111). -/
def State.selfBegun (s : State) : State :=
  { s.mapPeer s.cfg.station (PeerRecord.selfJoined s.cfg.role s.ownDeclarations) with
    tx := { s.tx with engine := .idle }
    port := { s.port with blocking := .join } }

theorem State.joinNow_listener {s : State} (h : s.cfg.station = 0) :
    s.joinNow = State.revote { s.joinBegun with node := { s.joinBegun.node with window := some s.now } } := by
  simp only [State.joinNow]
  rw [if_pos (by simp [State.listener, h])]
  rfl

theorem State.joinNow_talking {s : State} (h : s.cfg.station ≠ 0) :
    s.joinNow = s.joinBegun.selfBegun.joinSources.queueGroup.revote := by
  simp only [State.joinNow]
  rw [if_neg (by simp [State.listener, h])]
  rfl

theorem State.joinSources_keysKept (s : State) : KeysKept s s.joinSources :=
  .orHold _ (.of_eq rfl rfl) s.createOwnEntries_keysKept

theorem State.joinNow_keysKept (s : State) : KeysKept s s.joinNow := by
  by_cases station : s.cfg.station = 0
  · rw [State.joinNow_listener station]
    refine .trans ?_ (State.revote_keysKept _)
    exact .of_eq rfl rfl
  · rw [State.joinNow_talking station]
    refine .trans (.trans (.trans (u := s.joinBegun.selfBegun) ?_ (State.joinSources_keysKept _)) ?_)
      (State.revote_keysKept _)
    · exact .of_eq (by simp [State.joinBegun, State.selfBegun]) (by simp [State.joinBegun, State.selfBegun])
    · exact .of_eq (by simp) (by simp)

theorem State.leaveListening_keysKept (s : State) : KeysKept s s.leaveListening := by
  simp only [State.leaveListening]
  refine .ite (.of_eq (by simp) (by simp)) (.trans ?_ (State.completeLeave_keysKept _))
  exact .of_eq (by simp) (by simp)

/-- A reset leaves both tables empty. -/
theorem KeysKept.of_reset {s u : State} (sources : u.sources = []) (players : u.players = freePlayers) : KeysKept s u :=
  ⟨fun _ => by rw [State.sourceLaw_iff, sources]; exact List.nodup_nil, fun _ => State.playerLaw_of_free players⟩

theorem State.takeRun_keysKept (s : State) (r : Run) : KeysKept s (s.takeRun r) := .of_eq (by simp) (by simp)

/-- No command lets a key into either table twice. -/
theorem exec_keysKept {c : Instr} {s t : State} (h : exec c s = .next t) : KeysKept s t := by
  have stays : KeysKept s s := .of_eq rfl rfl
  cases c with
  | powerOnReset => cases h; exact .of_reset rfl rfl
  | haltNChange at_ low =>
    simp only [exec, execHaltNChange] at h
    split at h <;> cases h
    · exact .of_eq rfl rfl
    · refine .unlessReset (.of_eq rfl rfl) (.trans ?_ (State.revote_keysKept _))
      exact .of_eq rfl rfl
  | unknownCommand => cases h; exact .command stays (.answer stays _ _)
  | transactionEnd => cases h; exact .ite (.of_eq rfl rfl) (.of_eq rfl rfl)
  | setStation => cases h; exact .configCommand stays (.ite (.answer stays _ _) (.of_eq rfl rfl))
  | setTiming => cases h; exact .configCommand stays (.of_eq rfl rfl)
  | defineChannel channel policy =>
    cases h
    refine .configCommand stays ?_
    cases Policy.ofCode policy.toNat
    exacts [.answer stays _ _, .ite (.answer stays _ _) (.of_eq rfl rfl)]
  | defineAxis => cases h; exact .configCommand stays (.ite (.answer stays _ _) (.of_eq rfl rfl))
  | storeProfile profile stretch endMode =>
    cases h
    refine .onPort stays (.ite (.of_eq rfl rfl) (.configCommand stays (.ite (.answer stays _ _) ?_)))
    cases EndMode.ofCode endMode.toNat
    exacts [.answer stays _ _, .ite (.answer stays _ _) (.ite (.answer stays _ _) (.of_eq rfl rfl))]
  | profileWriteComplete =>
    simp only [exec, execProfileWriteComplete] at h
    split at h <;> cases h
    exacts [.unlessReset stays (.of_eq rfl rfl), stays]
  | clearProfiles => cases h; exact .configCommand stays (.of_eq rfl rfl)
  | setStage => cases h; exact .configCommand stays (.of_eq rfl rfl)
  | routeAlerts cls route =>
    cases h
    refine .configCommand stays ?_
    cases EventClass.ofCode cls.toNat <;> cases Route.ofCode route.toNat <;> exact .of_eq rfl rfl
  | join at_ =>
    cases h
    exact .configCommand (.of_eq rfl rfl) (.answer (.trans (s.advance_keysKept at_) (State.joinNow_keysKept _)) _ _)
  | leave at_ =>
    cases h
    have began := s.advance_keysKept at_
    refine .command began (.ite (.answer (.ite ?_ (.trans began (.of_eq (by simp) (by simp)))) _ _) (.answer began _ _))
    exact .trans began (State.leaveListening_keysKept _)
  | restart => cases h; exact .command (.of_eq rfl rfl) (.of_reset rfl rfl)
  | quiet => cases h; exact .command stays (.ite (.of_eq rfl rfl) (.answer stays _ _))
  | speak => cases h; exact .command (.of_eq rfl rfl) (.ite (.of_eq (by simp) (by simp)) (.of_eq rfl rfl))
  | post =>
    cases h
    exact .onPort stays (.ite (.of_eq rfl rfl) (.command stays
      (.ite (.answer stays _ _) (.ite (.answer stays _ _) (.of_eq rfl rfl)))))
  | fire =>
    cases h
    exact .command (.of_eq rfl rfl) (.ite (.of_eq rfl rfl) (.ite (.of_eq rfl rfl) (.of_eq (by simp) (by simp))))
  | cancel => cases h; exact .command (.of_eq rfl rfl) (.ite (.of_eq (by simp) (by simp)) (.of_eq rfl rfl))
  | askMode at_ mode =>
    cases h
    refine .command (.of_eq rfl rfl) ?_
    cases Mode.ofCode mode.toNat
    exacts [.of_eq rfl rfl, .of_eq (by simp) (by simp)]
  | status => cases h; exact .onPort stays (.answer stays _ _)
  | takeOutput => cases h; exact .command stays (.answer stays _ _)
  | takeChannels => cases h; exact .command stays (.answer stays _ _)
  | peer => cases h; exact .command stays (.ite (.answer stays _ _) (.answer stays _ _))
  | takeEvents => cases h; exact .command stays (.ite (.answer stays _ _) (.of_eq rfl rfl))
  | outputPeriodExpiry order whole =>
    cases h
    have begun := s.finishPass_keysKept.trans (State.beginPass_keysKept _ order)
    exact .unlessReset stays (.ite (begun.trans (State.finishPass_keysKept _)) begun)
  | silenceTimerExpiry x =>
    simp only [exec, execSilenceTimerExpiry] at h
    split at h <;> cases h
    · exact .unlessReset stays (.orHold _ (.of_eq rfl rfl) (.trans (s.advance_keysKept _) (State.losePeer_keysKept _ x)))
    · exact stays
  | forgetTimerExpiry x =>
    simp only [exec, execForgetTimerExpiry] at h
    split at h <;> cases h
    · exact .unlessReset stays (.orHold _ (.of_eq rfl rfl) (.trans (s.advance_keysKept _) (State.forgetPeer_keysKept _ x)))
    · exact stays
  | assemblyTimeLimit x =>
    simp only [exec, execAssemblyTimeLimit] at h
    split at h <;> cases h
    exacts [.unlessReset stays (.of_eq (by simp) (by simp)), stays]
  | announceHoldOffExpiry =>
    simp only [exec, execAnnounceHoldOffExpiry] at h
    split at h <;> cases h
    exacts [.unlessReset stays (.ite (.of_eq (by simp) (by simp)) (.of_eq rfl rfl)), stays]
  | joinWindowExpiry =>
    simp only [exec, execJoinWindowExpiry] at h
    cases h
    refine .unlessReset stays ?_
    split
    exacts [.ite (.of_eq (by simp) (by simp)) (.of_eq (by simp) (by simp)), stays]
  | levelIntervalExpiry =>
    simp only [exec, execLevelIntervalExpiry] at h
    split at h <;> cases h
    exacts [.unlessReset stays (.ite (.of_eq (by simp) (by simp)) stays), stays]
  | refreshTimerExpiry =>
    simp only [exec, execRefreshTimerExpiry] at h
    split at h <;> cases h
    exacts [.unlessReset stays (.of_eq (by simp) (by simp)), stays]
  | staleDeadline index =>
    simp only [exec, execStaleDeadline] at h
    split at h
    · split at h <;> cases h
      · exact stays
      · refine .ite ?_ ?_ <;> split <;> exact .of_eq (by simp) (by simp)
    · cases h; exact stays
  | carrierStart => cases h; exact .ite (.of_eq rfl rfl) (.of_eq rfl rfl)
  | gapEnd =>
    simp only [exec, execGapEnd] at h
    split at h <;> cases h
    exacts [.ite (.of_eq (by simp) (by simp)) (.of_eq rfl rfl), stays]
  | echoCheck heard =>
    simp only [exec, execEchoCheck] at h
    split at h
    · split at h <;> cases h
      exacts [.of_eq rfl rfl, .ite (.of_eq (by simp) (by simp)) (.of_eq (by simp) (by simp))]
    · cases h; exact stays
  | collision bit =>
    simp only [exec, execCollision] at h
    split at h
    · split at h <;> cases h
      exacts [.of_eq rfl rfl, stays]
    · cases h; exact stays
  | jamEnd =>
    simp only [exec, execJamEnd] at h
    split at h <;> cases h
    exacts [.ite (.of_eq (by simp) (by simp)) (.of_eq (by simp) (by simp)), stays]
  | backoffWaitEnd =>
    simp only [exec, execBackoffWaitEnd] at h
    split at h <;> cases h
    exacts [.ite (.of_eq (by simp) (by simp)) (.of_eq rfl rfl), stays]
  | attemptCompletes =>
    simp only [exec, execAttemptCompletes] at h
    split at h <;> cases h
    exacts [.of_eq (by simp) (by simp), stays]
  | leaveCompletion =>
    cases h
    exact .unlessReset stays (.ite (.orHold _ stays s.completeLeave_keysKept) stays)
  | runEnd at_ bits =>
    cases h
    refine .ite (.trans ?_ (State.takeRun_keysKept _ _)) ?_ <;> exact .of_eq rfl rfl
  | applyBurst => cases h; exact .unlessReset stays (.orHold _ stays s.applyOldest_keysKept)
  | rstNFall => cases h; exact .of_eq rfl rfl

theorem step_keysKept {s t : State} (h : step s = .next t) : KeysKept s t := by
  simp only [step] at h
  split at h
  · refine .trans ?_ (exec_keysKept h)
    exact .of_eq rfl rfl
  · cases h; exact s.finishPass_keysKept

/-- Settles O9: every operation on the tables keeps their keys, so every step does. -/
theorem tableKeysKept : Obligations.TableKeysKept :=
  ⟨fun _ _ law h => (step_keysKept h).sources law, fun _ _ law h => (step_keysKept h).players law⟩

end Sys2Proof.Machine
end

section
namespace Sys2Proof.Machine

/-! ### The sustained value of a channel (R14 to R17) -/

theorem SourceEntry.voice_eq_some (e : SourceEntry) (v : Voice) : e.voice = some v ↔
    v.station = e.station ∧ v.rank = e.rank ∧
      (e.held = .valid v.value ∧ v.isValid = true ∨ e.held = .fading v.value ∧ v.isValid = false) := by
  obtain ⟨station, rank, isValid, value⟩ := v
  cases held : e.held with
  | empty => simp [SourceEntry.voice, held]
  | valid a =>
    simp only [SourceEntry.voice, held, Option.some.injEq, Voice.mk.injEq, Held.valid.injEq, reduceCtorEq, false_and, or_false]
    exact ⟨fun ⟨h1, h2, h3, h4⟩ => ⟨h1.symm, h2.symm, h4, h3.symm⟩, fun ⟨h1, h2, h4, h3⟩ => ⟨h1.symm, h2.symm, h3.symm, h4⟩⟩
  | fading a =>
    simp only [SourceEntry.voice, held, Option.some.injEq, Voice.mk.injEq, Held.fading.injEq, reduceCtorEq, false_and, false_or]
    exact ⟨fun ⟨h1, h2, h3, h4⟩ => ⟨h1.symm, h2.symm, h4, h3.symm⟩, fun ⟨h1, h2, h4, h3⟩ => ⟨h1.symm, h2.symm, h3.symm, h4⟩⟩

theorem mem_voices (table : List SourceEntry) (c : Nat) (v : Voice) : v ∈ voices table c ↔
    ∃ e ∈ table, e.channel = c ∧ v.station = e.station ∧ v.rank = e.rank ∧
      (e.held = .valid v.value ∧ v.isValid = true ∨ e.held = .fading v.value ∧ v.isValid = false) := by
  simp only [voices, List.mem_filterMap, List.mem_filter, beq_iff_eq, SourceEntry.voice_eq_some, and_assoc]

/-- The sum of the voices, entry by entry. -/
theorem voices_sum (table : List SourceEntry) (c : Nat) : ((voices table c).map (·.value)).sum =
    (table.map fun e => if e.channel = c then match e.held with
        | .valid v => v
        | .fading v => v
        | .empty => 0
      else 0).sum := by
  induction table with
  | nil => rfl
  | cons e table ih =>
    have tail : voices (e :: table) c = (if e.channel = c then e.voice.toList else []) ++ voices table c := by
      by_cases channel : e.channel = c
      · cases voice : e.voice <;> simp [voices, channel, voice]
      · simp [voices, channel]
    rw [tail, List.map_append, List.sum_append, ih, List.map_cons, List.sum_cons]
    congr 1
    by_cases channel : e.channel = c
    · cases held : e.held <;> simp [channel, SourceEntry.voice, held]
    · simp [channel]

/-- Where `beats` goes by the greater measure and then by the lower station, the entry picked has the greatest measure and,
among those that share it, the lowest station. -/
theorem bestBy_greatest {beats : Voice → Voice → Bool} (measure : Voice → Nat)
    (order : ∀ a b, beats a b = true ↔ measure b < measure a ∨ measure a = measure b ∧ a.station < b.station)
    {l : List Voice} (h : l ≠ []) : ∃ v ∈ l, bestBy beats l = some v ∧
      ∀ w ∈ l, measure w < measure v ∨ measure w = measure v ∧ v.station ≤ w.station := by
  have loses : ∀ a b, beats a b = false ↔ measure a < measure b ∨ measure a = measure b ∧ b.station ≤ a.station := by
    intro a b
    rw [← Bool.not_eq_true, order]; omega
  obtain ⟨v, hv, best, unbeaten⟩ := bestBy_spec beats
    (fun a b c hab hbc => by rw [loses] at *; omega) (fun a b hab => by rw [loses]; rw [order] at hab; omega) l h
  exact ⟨v, hv, best, fun w hw => (loses w v).1 (unbeaten w hw)⟩

theorem Voice.greater_iff (a b : Voice) : a.greater b = true ↔
    b.value.natAbs < a.value.natAbs ∨ a.value.natAbs = b.value.natAbs ∧ a.station < b.station := by
  simp [Voice.greater]

theorem Voice.outranks_iff (a b : Voice) : a.outranks b = true ↔
    b.rank < a.rank ∨ a.rank = b.rank ∧ a.station < b.station := by
  simp [Voice.outranks]

theorem Policy.apply_greatest {vs : List Voice} (h : vs ≠ []) : ∃ v ∈ vs, Policy.greatest.apply vs = v.value ∧
    ∀ w ∈ vs, w.value.natAbs < v.value.natAbs ∨ w.value.natAbs = v.value.natAbs ∧ v.station ≤ w.station := by
  obtain ⟨v, hv, best, greatest⟩ := bestBy_greatest (·.value.natAbs) Voice.greater_iff h
  exact ⟨v, hv, by simp [Policy.apply, best], greatest⟩

/-- A VALID entry goes before every FADING one (R17). -/
theorem Policy.apply_ranked {vs : List Voice} (h : vs ≠ []) : ∃ v ∈ vs, Policy.ranked.apply vs = v.value ∧
    (v.isValid = false → ∀ w ∈ vs, w.isValid = false) ∧
      ∀ w ∈ vs, w.isValid = v.isValid → w.rank < v.rank ∨ w.rank = v.rank ∧ v.station ≤ w.station := by
  by_cases none_valid : vs.filter (·.isValid) = []
  · obtain ⟨v, hv, best, highest⟩ := bestBy_greatest (·.rank) Voice.outranks_iff h
    have fading : ∀ w ∈ vs, w.isValid = false := by simpa using none_valid
    exact ⟨v, hv, by simp [Policy.apply, none_valid, best], fun _ => fading, fun w hw _ => highest w hw⟩
  · obtain ⟨v, hv, best, highest⟩ := bestBy_greatest (·.rank) Voice.outranks_iff none_valid
    obtain ⟨hvs, valid⟩ := List.mem_filter.1 hv
    refine ⟨v, hvs, by simp [Policy.apply, none_valid, best], fun not_valid => ?_, fun w hw same => ?_⟩
    · rw [valid] at not_valid; cases not_valid
    · exact highest w (List.mem_filter.2 ⟨hw, same.trans valid⟩)

/-- Settles O16: the voices are the VALID and FADING entries, and each policy is the fold its rule names over them. -/
theorem policiesMerge : Obligations.PoliciesMerge := by
  intro channels table c
  refine ⟨mem_voices table c, fun policy => ?_, fun policy => ⟨fun silent => ?_, fun heard => ?_⟩,
    fun policy => ⟨fun silent => ?_, fun heard => ?_⟩⟩
  · simp only [sustained, policy]
    exact congrArg saturate (voices_sum table c)
  · simp only [sustained, policy, silent]; rfl
  · simpa only [sustained, policy] using Policy.apply_greatest heard
  · simp only [sustained, policy, silent]; rfl
  · simpa only [sustained, policy] using Policy.apply_ranked heard

/-! ### DEFINE CHANNEL (R13) -/

theorem Policy.ofCode_isSome (n : Nat) : (∃ p, Policy.ofCode n = some p) ↔ n ≤ 2 := by
  match n with
  | 0 | 1 | 2 => simp [Policy.ofCode]
  | n + 3 => simp [Policy.ofCode]

/-- Settles O33: the command is taken, and the record it writes is read back at its number and at no other. -/
theorem defineChannelReplacesTheRecord : Obligations.DefineChannelReplacesTheRecord := by
  intro s channel policy produce rank deadband fadeStep port config size
  refine ⟨fun inRange known => ?_, fun bad => ?_⟩
  · obtain ⟨p, code⟩ := (Policy.ofCode_isSome policy.toNat).2 known
    refine ⟨_, rfl, ?_⟩
    rw [State.configCommand_open port config]
    simp only [code, if_neg (Nat.not_lt.2 inRange)]
    have here (record : Channel) : (s.cfg.channels.set channel.toNat record).getD channel.toNat {} = record :=
      getD_set_self _ _ _ _ (by omega)
    simp only [State.channel, State.answer_frame, here]
    refine ⟨trivial, by simp, trivial, trivial, rfl, fun c other => getD_set_ne _ _ _ _ _ other, rfl⟩
  · refine congrArg Host.Outcome.next ?_
    rw [State.configCommand_open port config]
    cases code : Policy.ofCode policy.toNat with
    | none => rfl
    | some p =>
      have known := (Policy.ofCode_isSome policy.toNat).1 ⟨p, code⟩
      dsimp only
      rw [if_pos (by omega)]
      rfl

end Sys2Proof.Machine
end

section
namespace Sys2Proof.Machine

/-! ### What an event tells the Level Sender (R65, R133) -/

/-- What the Level Sender is told between two states rests on a few of their fields only. -/
theorem State.RequestTold.congr {s u s' u' : State} (told : s'.RequestTold u') (tx : s'.tx = s.tx := by simp)
    (line : s'.line = s.line := by simp) (announce : s'.announce = s.announce := by simp) (cfg : s'.cfg = s.cfg := by simp)
    (request : s'.output.ownRequest = s.output.ownRequest := by simp)
    (state : s'.sender.state = s.sender.state := by simp) (pending : s'.sender.pending = s.sender.pending := by simp)
    (posted : s'.sender.posted = s.sender.posted := by simp) (tx' : u.tx = u'.tx := by simp)
    (line' : u.line = u'.line := by simp) (announce' : u.announce = u'.announce := by simp)
    (request' : u.output.ownRequest = u'.output.ownRequest := by simp)
    (pending' : u.sender.pending = u'.sender.pending := by simp) : s.RequestTold u := by
  have pairs := State.levelPairs_congr cfg posted
  simp only [State.RequestTold, State.LevelAsked, State.QueueIs, tx, line, announce, request, state, pending, pairs, tx',
    line', announce', request', pending'] at told ⊢
  exact told

/-- An event that leaves the queue and the own request alone tells the Level Sender nothing. -/
theorem State.RequestTold.of_same {s u : State} (tx : u.tx = s.tx) (line : u.line = s.line)
    (announce : u.announce = s.announce) (request : u.output.ownRequest = s.output.ownRequest)
    (pending : u.sender.pending = s.sender.pending) : s.RequestTold u :=
  ⟨fun changed => absurd request changed, fun _ => ⟨tx, line, announce, pending⟩⟩

/-! ### The hand-overs of a pass (R56, R64, R72, R86 to R88) -/

/-- The Excursion Monitor's hand-over raises records and counts, and then may set the trip latch. -/
theorem State.monitorPass_cases (s : State) (p : Pass) : ∃ events axes,
    s.monitorPass p = { s with events, monitor := { s.monitor with axes } } ∨
    s.monitorPass p = State.setTrip { s with events, monitor := { s.monitor with axes } } := by
  have raised (kind : EventKind) (values : List Int) (which : List Nat) (t : State) :
      ∃ events, t.reportAxes kind values which = { t with events } :=
    foldl_events (fun s a => s.report kind none none (some a) none (some (values.getD a 0))) (fun _ _ => ⟨_, rfl⟩) which t
  simp only [State.monitorPass]
  obtain ⟨warned, h⟩ := raised .warn p.outputs s.monitor.newWarns s
  rw [h]
  obtain ⟨clipped, h⟩ := raised .clip p.pres s.monitor.newClips { s with events := warned }
  rw [h]
  split
  · exact ⟨_, _, .inl rfl⟩
  · obtain ⟨tripped, h⟩ := raised .hardTrip p.demands (s.hardTrips p)
      { s with events := clipped, monitor := { s.monitor with axes := axisNumbers.map (s.countedAxis p) } }
    exact ⟨tripped, _, .inr (congrArg State.setTrip h)⟩

/-- The trip latch makes the effective mode PARK, so setting it neither parks the stage nor lets it leave PARKED. -/
theorem State.setTrip_parked (s : State) : s.setTrip.output.stage = .parked ↔ s.output.stage = .parked := by
  simp only [State.setTrip, State.revote]
  generalize hv : (State.formRequest { s with monitor := { s.monitor with trip := true } }).evaluateMode = v
  have stage : v.output.stage = s.output.stage := by
    rw [← hv, State.evaluateMode_output, State.formRequest_output]
  have effective : v.output.effective = .park := by
    rw [← hv, State.evaluateMode_output]
    refine Mode.park_of_le (Nat.le_trans (Nat.le_of_eq ?_) (State.ownRequest_le _))
    rw [State.formRequest_output]
    exact congrArg Mode.code (State.formOwnRequest_park (.inr (.inl rfl))).symm
  have held : v.mayRise = false := by simp [State.mayRise, effective]
  rw [← stage]
  cases h : v.output.stage <;> simp [State.turnStage, h, held]

theorem State.monitorPass_parked (s : State) (p : Pass) :
    (s.monitorPass p).output.stage = .parked ↔ s.output.stage = .parked := by
  obtain ⟨events, axes, h | h⟩ := s.monitorPass_cases p <;> rw [h]
  exact State.setTrip_parked _

theorem State.setTrip_told (s : State) : s.RequestTold s.setTrip := by
  have told : State.RequestTold { s with monitor := { s.monitor with trip := true } } s.setTrip := State.revote_told _
  exact told.congr

theorem State.monitorPass_told (s : State) (p : Pass) : s.RequestTold (s.monitorPass p) := by
  obtain ⟨events, axes, h | h⟩ := s.monitorPass_cases p <;> rw [h]
  · exact .of_same rfl rfl rfl rfl rfl
  · have told := State.setTrip_told { s with events, monitor := { s.monitor with axes } }
    exact told.congr

theorem State.monitorPass_sender (s : State) (p : Pass) :
    (s.monitorPass p).sender = { s.sender with pending := (s.monitorPass p).sender.pending } := by
  obtain ⟨events, axes, h | h⟩ := s.monitorPass_cases p <;> rw [h]
  exact State.revote_sender _

theorem State.stepFactor_ownRequest (s : State) : s.stepFactor.output.ownRequest = s.output.ownRequest := by
  simp only [State.stepFactor]
  split
  · split <;> rfl
  · split <;> rfl
  all_goals rfl

/-- Entering PARKED frees the players, and no other step of the factor touches them (R39, R75). -/
theorem State.stepFactor_players (s : State) :
    (s.stepFactor.output.stage ≠ .parked ∨ s.output.stage = .parked → s.stepFactor.players = s.players) ∧
    (s.stepFactor.output.stage = .parked → s.output.stage ≠ .parked → s.stepFactor.players = freePlayers) ∧
    (s.output.stage = .parked → s.stepFactor.output.stage = .parked) := by
  cases h : s.output.stage with
  | live => simp [State.stepFactor, h]
  | parked => simp [State.stepFactor, h]
  | easing => simp only [State.stepFactor, h]; split <;> simp
  | rising => simp only [State.stepFactor, h]; split <;> simp

theorem State.handOver_told (s : State) (p : Pass) : s.RequestTold (s.handOver p) := by
  cases order : p.order <;> simp only [State.handOver, order]
  · exact (s.stepFactor.monitorPass_told p).congr (request := s.stepFactor_ownRequest)
  · exact (s.monitorPass_told p).congr (request' := State.stepFactor_ownRequest _)

theorem State.handOver_sender (s : State) (p : Pass) :
    (s.handOver p).sender = { s.sender with pending := (s.handOver p).sender.pending } := by
  cases order : p.order <;> simp only [State.handOver, order]
  · rw [State.monitorPass_sender]; simp
  · simp only [State.stepFactor_frame]; rw [State.monitorPass_sender]

/-- The players are freed where the stage becomes PARKED, and stay otherwise, in both orders of the hand-overs. -/
theorem State.handOver_players (s : State) (p : Pass) :
    ((s.handOver p).output.stage ≠ .parked ∨ s.output.stage = .parked → (s.handOver p).players = s.players) ∧
    ((s.handOver p).output.stage = .parked → s.output.stage ≠ .parked → (s.handOver p).players = freePlayers) := by
  cases order : p.order <;> simp only [State.handOver, order]
  · obtain ⟨stays, freed, -⟩ := s.stepFactor_players
    simp only [Ne, State.monitorPass_parked, State.monitorPass_frame]
    exact ⟨stays, freed⟩
  · obtain ⟨stays, freed, -⟩ := (s.monitorPass p).stepFactor_players
    simp only [Ne, State.monitorPass_parked, State.monitorPass_frame] at stays freed
    exact ⟨stays, freed⟩

/-! ### A whole pass (R12, R18 to R20, R47, R48, R55) -/

theorem State.finishPass_of_none {s : State} (h : s.merge.pass = none) : s.finishPass = s := by
  simp [State.finishPass, h]

/-- The pass of an expiry: what its axes come to, with the stage and the factor it begins with. -/
def State.passBegun (s : State) (o : HandOverOrder) : Pass :=
  let results := axisNumbers.map
    ((s.countExpiry.mergeChannels s.countExpiry.now).axisResult s.output.factor)
  { order := o, stage := s.output.stage, factor := s.output.factor
    demands := results.map (·.demand), pres := results.map (·.pre), outputs := results.map (·.output) }

/-- A whole pass as its frame is published, before its hand-overs. -/
def State.passPublished (s : State) (o : HandOverOrder) : State :=
  State.publish { s.beginPass o with merge := { (s.beginPass o).merge with pass := none, held := [] } } (s.passBegun o)

theorem exec_wholePass {s : State} (o : HandOverOrder) (high : s.inReset = false) (between : s.BetweenPasses) :
    exec (.outputPeriodExpiry o true) s = .next ((s.passPublished o).handOver (s.passBegun o)) := by
  obtain ⟨pass, held⟩ := between
  simp only [exec, execOutputPeriodExpiry, State.unlessReset_high high, State.finishPass_of_none pass, if_true]
  have begun : (s.beginPass o).merge.pass = some (s.passBegun o) := rfl
  have none_held : (s.beginPass o).merge.held = [] := held
  simp only [State.finishPass, begun, none_held, List.foldl_nil]
  rfl

/-- The smallest of a list and a bound. -/
theorem foldl_min_spec (l : List Nat) (m : Nat) :
    l.foldl min m ≤ m ∧ (∀ a ∈ l, l.foldl min m ≤ a) ∧ (l.foldl min m = m ∨ l.foldl min m ∈ l) := by
  induction l generalizing m with
  | nil => simp
  | cons a l ih =>
    obtain ⟨bound, least, attained⟩ := ih (min m a)
    simp only [List.foldl_cons, List.mem_cons, forall_eq_or_imp]
    refine ⟨by omega, ⟨by omega, least⟩, ?_⟩
    rcases attained with h | h
    · omega
    · exact .inr (.inr h)

theorem SourceEntry.age_eq_some (count : Count) (e : SourceEntry) (n : Nat) : e.age count = some n ↔
    ∃ u, (∃ v, e.held = .valid v) ∧ e.lastUpdate = some u ∧ n = (count - u).toNat := by
  cases held : e.held <;> cases update : e.lastUpdate <;> simp [SourceEntry.age, held, update, eq_comm]

/-- The age of a channel is the least of the ages of its VALID entries, and 65535 bounds it (R20). -/
theorem channelAge_spec (table : List SourceEntry) (count : Count) (c : Nat) :
    channelAge table count c ≤ 65535 ∧
    (∀ e u, e ∈ table ∧ e.channel = c ∧ (∃ v, e.held = .valid v) ∧ e.lastUpdate = some u →
      channelAge table count c ≤ (count - u).toNat) ∧
    (channelAge table count c = 65535 ∨ ∃ e u, (e ∈ table ∧ e.channel = c ∧ (∃ v, e.held = .valid v) ∧ e.lastUpdate = some u) ∧
      channelAge table count c = (count - u).toNat) := by
  obtain ⟨bound, least, attained⟩ :=
    foldl_min_spec ((table.filter (·.channel == c)).filterMap (SourceEntry.age count)) Config.ageMax
  simp only [List.mem_filterMap, List.mem_filter, beq_iff_eq, SourceEntry.age_eq_some] at least attained
  refine ⟨bound, ?_, attained.imp_right ?_⟩
  · rintro e u ⟨mem, channel, valid, update⟩
    exact least _ ⟨e, ⟨mem, channel⟩, u, valid, update, rfl⟩
  · rintro ⟨e, ⟨mem, channel⟩, u, valid, update, age⟩
    exact ⟨e, u, ⟨mem, channel, valid, update⟩, age⟩

/-- Settles O17: the first stage of a pass is the fade of the table, and no later stage touches the entries. -/
theorem fadeStage : Obligations.FadeStage := by
  refine ⟨fun s o high between => ⟨_, exec_wholePass o high between, ?_⟩, fun e step v held => ?_, fun e step other => ?_⟩
  · simp only [State.handOver_frame]; rfl
  · refine ⟨fun more pos => ?_, fun more neg => ?_, fun last declared => ?_, fun last gone => ?_⟩
    · simp [SourceEntry.fadeStage, held, more, not_lt.2 pos.le]
    · simp [SourceEntry.fadeStage, held, more, neg]
    · simp [SourceEntry.fadeStage, held, not_lt.2 last, declared]
    · simp [SourceEntry.fadeStage, held, not_lt.2 last, gone]
  · cases held : e.held with
    | fading v => exact absurd held (other v)
    | empty => simp [SourceEntry.fadeStage, held]
    | valid v => simp [SourceEntry.fadeStage, held]

/-- Settles O18: the pass is published with what its stages have formed, and the hand-overs then touch the stage, the monitor,
the players and what a changed own request asks for. -/
theorem passPublishes : Obligations.PassPublishes := by
  intro s o high between
  refine ⟨_, exec_wholePass o high between, ?_⟩
  have told := (s.passPublished o).handOver_told (s.passBegun o)
  have sender := (s.passPublished o).handOver_sender (s.passBegun o)
  have players := (s.passPublished o).handOver_players (s.passBegun o)
  have frame := (s.passPublished o).handOver_frame (s.passBegun o)
  generalize (s.passPublished o).handOver (s.passBegun o) = u at *
  obtain ⟨pending, now, inReset, haltLow, strobes, cfg, store, fifo, peers, sources, merge, node, counters, port⟩ := frame
  rw [now, merge, sources]
  refine ⟨rfl, rfl, rfl, strobes, ⟨by rw [merge]; rfl, by rw [merge]; rfl⟩, rfl, fun c hc => ?_, fun c hc => ?_, players,
    rfl, rfl, rfl, rfl, rfl, rfl, sender, told.congr rfl rfl rfl rfl rfl rfl rfl rfl, ?_⟩
  · exact getD_channelNumbers (fun c => saturate (sustained s.cfg.channels (fadeTable s.cfg.channels s.sources) c +
      contributions s.store (startPlayers (max s.now s.merge.periodDue) s.players) c)) 0 hc
  · have age : (s.passPublished o).merge.lastChannels.ages.getD c 0 =
        channelAge (s.passPublished o).sources (s.passPublished o).merge.periodCount c := getD_channelNumbers _ _ hc
    simp only [age]
    exact channelAge_spec _ _ c
  · exact State.eq_of_fields pending now inReset haltLow rfl cfg store rfl fifo peers rfl sources rfl merge rfl rfl rfl rfl
      node counters port rfl

end Sys2Proof.Machine
end

section
namespace Sys2Proof.Machine

/-! ### Changes held in a pass (R11, R49) -/

theorem step_of_idle {s : State} (h : s.pending = []) : step s = .next s.finishPass := by simp [step, h]

/-- A held change is made as its command makes it where the two agree on the state the pass ends in. -/
theorem State.madeAsThePassEnds {s : State} (pass : s.merge.pass ≠ none) (high : s.inReset = false) {h : HeldChange}
    {c : Instr} {nothing : State → Prop}
    (made : ∀ v : State, v.merge.pass = none → v.inReset = false → v.cfg = s.cfg →
      (¬nothing v → exec c v = .next (v.makeHeld h)) ∧ (nothing v → v.makeHeld h = v)) :
    s.MadeAsThePassEnds h c nothing := by
  intro idle
  obtain ⟨acts, comes_to_nothing⟩ := made s.finishPass s.finishPass_pass (by simp [high]) (by simp)
  have ends : step { s with merge := { s.merge with held := s.merge.held ++ [h] } } = .next (s.finishPass.makeHeld h) := by
    rw [← State.finishPass_held pass]; exact step_of_idle idle
  refine ⟨s.finishPass, step_of_idle idle, s.finishPass_pass, fun h => ?_, fun h => ?_⟩
  · rw [ends, acts h]
  · rw [ends, comes_to_nothing h]

/-! ### The records of an event (R69, R79) -/

/-- The records an event raises before its vote stand before those of the vote. -/
theorem State.Raised.after_records {s a u : State} {records : List Record} (vote : a.Raised u [])
    (events : a.events = records.foldl EventUnit.offer s.events)
    (effective : a.output.effective = s.output.effective := by simp) (stage : a.output.stage = s.output.stage := by simp)
    (count : a.merge.periodCount = s.merge.periodCount := by simp) : s.Raised u records := by
  simp only [State.Raised, State.voteRecords, List.nil_append, effective, stage, count, events, List.foldl_append] at vote ⊢
  exact vote

/-! ### LEAVE completion (R113, R130) -/

theorem State.evaluateMode_voted {s : State} (h : s.RequestLaw) : s.evaluateMode.Voted := by
  have output := s.evaluateMode_output
  refine ⟨?_, ?_⟩
  · rw [State.RequestLaw, output, h]
    exact (State.formOwnRequest_congr (by simp) (by rw [output]) (by simp) (by simp)).symm
  · rw [output]
    exact (State.formEffective_congr (by simp) (by simp) (by rw [output])).symm

theorem State.formRequest_law (s : State) : s.formRequest.RequestLaw := by
  rw [State.RequestLaw, State.formRequest_output]
  exact (State.formOwnRequest_congr (by simp) (by rw [State.formRequest_output]) (by simp) (by simp)).symm

theorem State.parkNow_voted {s : State} (h : s.Voted) : s.parkNow.Voted := by
  obtain ⟨request, effective⟩ := h
  have output := s.parkNow_output
  refine ⟨?_, ?_⟩
  · rw [State.RequestLaw, output, request]
    exact (State.formOwnRequest_congr (by simp) (by rw [output]) (by simp) (by simp)).symm
  · rw [output, effective]
    exact (State.formEffective_congr (by simp) (by simp) (by rw [output])).symm

/-- A vote that ends with the stage parked at once raises its own records and no other. -/
theorem State.parkingVote_raised (s : State) : s.Raised s.formRequest.evaluateMode.parkNow [] := by
  simp only [State.Raised, State.voteRecords, State.parkNow_output, State.evaluateMode_output, State.formRequest_output]
  simp only [State.parkNow, State.evaluateMode, State.changeStage, State.report, State.formRequest_output]
  (repeat' split) <;> simp_all [State.formRequest_output]

theorem State.completeLeave_ended (s : State) : s.SessionEnded s.completeLeave := by
  have output : s.completeLeave.output.localRequest = s.output.localRequest ∧ s.completeLeave.output.stage = .parked ∧
      s.completeLeave.output.factor = 0 := by
    simp only [State.completeLeave, State.parkNow_output, State.evaluateMode_output, State.formRequest_output]
    simp
  have voted : s.completeLeave.Voted := State.parkNow_voted (State.evaluateMode_voted (State.formRequest_law _))
  obtain ⟨localRequest, stage, factor⟩ := output
  refine ⟨?_, ?_, ?_, ?_, ?_, ?_, ?_, ?_, ?_, ?_, ?_, voted, localRequest, stage, factor⟩ <;>
    simp [State.completeLeave, State.formRequest_silent, freePlayers, Line.closed, State.reset, PeerRecord.cleared]

theorem State.completeLeave_raised (s : State) : s.Raised s.completeLeave
    [{ kind := .nodeState, count := s.merge.periodCount, detail := some 0, value := some (s.node.state.code : Int) }] := by
  simp only [State.completeLeave]
  exact (State.parkingVote_raised _).after_records (by simp [State.enterNode]; rfl)

/-- Settles O39: the completion leaves the session ended, and as a held change it is made by the same rule at the end of the
pass. -/
theorem leaveCompletionEmptiesTheNode : Obligations.LeaveCompletionEmptiesTheNode := by
  intro s high
  refine ⟨fun due leaving between => ⟨s.completeLeave, ?_, s.completeLeave_ended, fun blocking => ?_, fun other other' => ?_, ?_, ?_⟩,
    fun due leaving pass => ⟨?_, State.madeAsThePassEnds pass high fun v between high _ => ⟨fun _ => ?_, False.elim⟩⟩,
    fun none_due => ?_⟩
  · simp [exec, execLeaveCompletion, State.unlessReset_high high, due, leaving, between]
  · simp [State.completeLeave, Port.endSession, blocking]
  · simp [State.completeLeave, Port.endSession]
  · have := s.completeLeave_raised
    rw [leaving] at this; exact this
  · apply State.eq_of_fields <;> simp
  · simp [exec, execLeaveCompletion, State.unlessReset_high high, due, leaving, State.orHold_of_pass pass]
  · simp [exec, execLeaveCompletion, State.unlessReset_high high, between, State.makeHeld]
  · rw [exec, execLeaveCompletion, State.unlessReset_high high, if_neg]
    rintro ⟨due, leaving⟩
    rcases none_due with h | h
    · rw [due] at h; cases h
    · exact h leaving

end Sys2Proof.Machine
end

section
namespace Sys2Proof.Machine

/-! ### JOIN (R111, R112) -/

/-- The declarations an entry carries. -/
def TxEntry.decls (e : TxEntry) : List Declaration :=
  match e.body with
  | .page _ _ _ _ decls => decls
  | _ => []

/-- Slices of four, in their order, make up the list. -/
theorem flatMap_slices {α : Type} (l : List α) (n : Nat) :
    (List.range n).flatMap (fun i => (l.drop (4 * i)).take 4) = l.take (4 * n) := by
  induction n with
  | zero => simp
  | succ n ih => rw [List.range_succ, List.flatMap_append, ih, Nat.mul_succ, List.take_add]; simp

/-- The pages of the own group carry the own declarations, each once and in order (R97). -/
theorem State.OwnGroup.decls {s : State} {pages : List TxEntry} (h : s.OwnGroup pages) :
    pages.flatMap TxEntry.decls = s.ownDeclarations := by
  obtain ⟨size, page⟩ := h
  have slices : pages.map TxEntry.decls =
      (List.range pages.length).map fun i => (s.ownDeclarations.drop (4 * i)).take 4 := by
    refine List.ext_getElem? fun i => ?_
    rcases Nat.lt_or_ge i pages.length with hi | hi
    · obtain ⟨pos, entry, -⟩ := page i pages[i] (List.getElem?_eq_getElem hi)
      simp [hi, entry, TxEntry.decls]
    · simp [hi]
  rw [List.flatMap_def, slices, ← List.flatMap_def, flatMap_slices]
  exact List.take_of_length_le (by omega)

theorem State.ownDeclarations_length (s : State) : s.ownDeclarations.length ≤ 16 := by
  simpa [State.ownDeclarations, State.produced] using List.length_filter_le (fun c => (s.channel c).produce) (List.range 16)

theorem State.ownDeclarations_congr {s t : State} (h : t.cfg = s.cfg) : t.ownDeclarations = s.ownDeclarations := by
  simp only [State.ownDeclarations, State.produced, State.channel, h]

/-- The quiet count JOIN starts stands below 64, so the engine waits for the gap with the whole group queued. -/
theorem State.join_queues (s : State) (empty : s.tx.entries = []) :
    let u := s.joinBegun.selfBegun.joinSources.queueGroup
    s.OwnGroup u.tx.entries ∧
    u.tx = { s.tx with
      entries := u.tx.entries, engine := .working .defer, sequence := 0, last := (s.tx.last + u.tx.entries.length) % 8 } ∧
    u.line = { s.joinBegun.line with wait := .none } ∧
    u.announce = { s.announce with state := .queued, waiting := false } := by
  have few := s.ownDeclarations_length
  generalize hb : s.joinBegun.selfBegun.joinSources = b
  have tx : b.tx = { s.tx with engine := .idle, sequence := 0 } := by simp [← hb, State.selfBegun, State.joinBegun]
  have line : b.line = s.joinBegun.line := by simp [← hb, State.selfBegun]
  have announce : b.announce = s.announce := by simp [← hb, State.selfBegun, State.joinBegun]
  have now : b.now = s.now := by simp [← hb, State.selfBegun, State.joinBegun]
  have cfg : b.cfg = s.cfg := by simp [← hb, State.selfBegun, State.joinBegun]
  have decls : b.ownDeclarations = s.ownDeclarations := State.ownDeclarations_congr cfg
  obtain ⟨fits, -⟩ := b.queueGroup_queued
  rw [decls, tx, empty] at fits
  obtain ⟨group, own, -, turns⟩ := fits (by simp; omega)
  have own : s.OwnGroup group := by simpa only [State.OwnGroup, decls] using own
  obtain ⟨waits, -⟩ := turns rfl
  obtain ⟨queued, off, state⟩ := waits (by
    simp only [State.queueGroup_frame, now, line, State.joinBegun]
    cases s.carrier <;> simp)
  have size : group.length = max 1 ((s.ownDeclarations.length + 3) / 4) := own.1
  dsimp only
  rw [queued, off, state, ← size]
  refine ⟨by simpa using own, ?_, by rw [line], by rw [announce]⟩
  simp [Engine.at]

theorem State.joinBegun_events (s : State) (config : s.node.state = .config) : s.joinBegun.events = s.events.offer
    { kind := .nodeState, count := s.merge.periodCount, detail := some 1, value := some 0 } := by
  simp only [State.joinBegun, State.enterNode, State.report_events, config]; rfl

theorem State.joinBegun_line (s : State) :
    let seeded := s.cfg.seed ^^^ BitVec.ofNat 16 (s.cfg.station * 0x1111)
    s.joinBegun.line = { s.line with
      receiveOpen := true, echoFails := 0, backoffReg := if seeded = 0 then 1 else seeded
      quiet := if s.line.run = none ∧ s.line.drive = .idle then .counting s.now else .stopped } := by
  have carrier : s.carrier = true ↔ ¬(s.line.run = none ∧ s.line.drive = .idle) := by
    simp only [State.carrier, Bool.or_eq_true, Option.isSome_iff_ne_none, decide_eq_true_eq]; tauto
  by_cases free : s.line.run = none ∧ s.line.drive = .idle
  · simp only [State.joinBegun, lfsrSeed, if_pos free, if_neg (mt carrier.1 (not_not.2 free))]
  · simp only [State.joinBegun, lfsrSeed, if_neg free, if_pos (carrier.2 free)]

/-- The answered command leaves the vote as it was taken. -/
theorem State.answer_voted {s : State} (h : s.Voted) (r : Result) (data : List Byte) : (s.answer r data).Voted :=
  State.voted_congr h rfl rfl rfl rfl rfl rfl

theorem State.Raised.answer {s u : State} {records : List Record} (h : s.Raised u records) (r : Result) (data : List Byte) :
    s.Raised (u.answer r data) records := h

/-- The own entries that a pass holds back join the table as it ends. -/
theorem State.ownEntries_held {s u : State} (pass : s.merge.pass ≠ none)
    (held : u.merge = { s.merge with held := s.merge.held ++ [.ownEntries] }) (cfg : u.cfg = s.cfg) (idle : u.pending = []) :
    ∃ v, step { u with merge := s.merge } = .next v ∧ v.merge.pass = none ∧ (s.merge.held = [] → v.sources = u.sources) ∧
      ((∀ e ∈ v.sources, e.station ≠ s.cfg.station) →
        step u = .next { v with sources := v.sources ++ s.ownDeclarations.map (SourceEntry.fresh s.cfg.station) }) := by
  generalize hw : ({ u with merge := s.merge } : State) = w
  have ends : u.finishPass = w.finishPass.createOwnEntries := by
    have h := State.finishPass_held (s := w) (by rw [← hw]; exact pass) .ownEntries
    rw [← hw] at h ⊢
    simp only [State.makeHeld, ← held] at h
    exact h
  have cfg_v : w.finishPass.cfg = s.cfg := by rw [← hw]; simp [cfg]
  refine ⟨w.finishPass, step_of_idle (by rw [← hw]; exact idle), w.finishPass_pass, fun none_held => ?_, fun none_own => ?_⟩
  · obtain ⟨p, open_pass⟩ := Option.ne_none_iff_exists'.1 pass
    rw [← hw]
    simp [State.finishPass, open_pass, none_held]
  · rw [step_of_idle idle, ends, State.createOwnEntries_new (by rw [cfg_v]; exact none_own),
      State.ownDeclarations_congr cfg_v, cfg_v]

/-- JOIN as it comes to its vote. -/
def State.joinPrepared (s : State) : State :=
  if s.cfg.station = 0 then { s.joinBegun with node := { s.joinBegun.node with window := some s.now } }
  else s.joinBegun.selfBegun.joinSources.queueGroup

theorem State.joinNow_eq (s : State) : s.joinNow = s.joinPrepared.revote := by
  simp only [State.joinPrepared]
  split
  · exact State.joinNow_listener ‹_›
  · exact State.joinNow_talking ‹_›

@[simp] theorem State.joinPrepared_frame (s : State) :
    s.joinPrepared.pending = s.pending ∧ s.joinPrepared.now = s.now ∧ s.joinPrepared.inReset = s.inReset ∧
    s.joinPrepared.haltLow = s.haltLow ∧ s.joinPrepared.strobes = s.strobes ∧ s.joinPrepared.cfg = s.cfg ∧
    s.joinPrepared.store = s.store ∧ s.joinPrepared.fifo = s.fifo ∧ s.joinPrepared.players = s.players ∧
    s.joinPrepared.merge.periodCount = s.merge.periodCount ∧ s.joinPrepared.output = s.output ∧
    s.joinPrepared.monitor = s.monitor ∧ s.joinPrepared.sender = s.sender ∧ s.joinPrepared.node.state = .joining ∧
    s.joinPrepared.counters = s.counters ∧ s.joinPrepared.events = s.joinBegun.events := by
  have merge (a : State) : a.joinSources.merge.periodCount = a.merge.periodCount := by
    simp only [State.joinSources, State.orHold]; split <;> simp
  simp only [State.joinPrepared]
  split
  · simp [State.joinBegun]
  · simp [merge, State.selfBegun, State.joinBegun]

theorem State.joinPrepared_line (s : State) (empty : s.tx.entries = []) : s.joinPrepared.line =
    { s.joinBegun.line with wait := if s.cfg.station = 0 then s.line.wait else .none } := by
  simp only [State.joinPrepared]
  split
  · rfl
  · obtain ⟨-, -, line, -⟩ := s.join_queues empty
    exact line

/-- The own entries as JOIN makes them, or holds them back in a pass. -/
theorem State.joinPrepared_sources (s : State) (talks : s.cfg.station ≠ 0) (empty : s.sources = []) :
    (s.merge.pass = none → s.joinPrepared.sources = s.ownDeclarations.map (SourceEntry.fresh s.cfg.station) ∧
      s.joinPrepared.merge = s.merge) ∧
    (s.merge.pass ≠ none → s.joinPrepared.sources = [] ∧
      s.joinPrepared.merge = { s.merge with held := s.merge.held ++ [.ownEntries] }) := by
  simp only [State.joinPrepared, if_neg talks, State.queueGroup_frame, State.joinSources]
  generalize hb : s.joinBegun.selfBegun = b
  have sources : b.sources = [] := by simp [← hb, State.selfBegun, State.joinBegun, empty]
  have merge : b.merge = s.merge := by simp [← hb, State.selfBegun, State.joinBegun]
  have cfg : b.cfg = s.cfg := by simp [← hb, State.selfBegun, State.joinBegun]
  rw [← merge]
  refine ⟨fun between => ?_, fun pass => ?_⟩
  · rw [State.orHold_of_none between, State.createOwnEntries_new (by simp [sources]), State.ownDeclarations_congr cfg, cfg]
    exact ⟨by simp [sources], rfl⟩
  · rw [State.orHold_of_pass pass]
    exact ⟨sources, rfl⟩

theorem State.joinPrepared_listening (s : State) (listens : s.cfg.station = 0) : s.joinPrepared =
    { s.joinBegun with node := { s.joinBegun.node with window := some s.now } } := if_pos listens

theorem State.joinPrepared_queues (s : State) (talks : s.cfg.station ≠ 0) (empty : s.tx.entries = []) :
    s.OwnGroup s.joinPrepared.tx.entries ∧
    s.joinPrepared.tx = { s.tx with
      entries := s.joinPrepared.tx.entries, engine := .working .defer, sequence := 0
      last := (s.tx.last + s.joinPrepared.tx.entries.length) % 8 } ∧
    s.joinPrepared.announce = { s.announce with state := .queued, waiting := false } := by
  rw [State.joinPrepared, if_neg talks]
  obtain ⟨own, tx, -, announce⟩ := s.join_queues empty
  exact ⟨own, tx, announce⟩

/-- What JOIN of a talking node leaves beside the queue, the line and the Source Table. -/
theorem State.joinPrepared_talking (s : State) (talking : s.cfg.station ≠ 0) (size : s.peers.length = 15)
    (station : s.cfg.station ≤ 15) :
    let u := s.joinPrepared
    u.port = { s.port with blocking := .join } ∧ u.node = { s.node with state := .joining } ∧
    u.peerAt s.cfg.station =
      { s.peerAt s.cfg.station with link := .present, role := s.cfg.role, declared := s.ownDeclarations } ∧
    (∀ st, st ≠ s.cfg.station → u.peerAt st = s.peerAt st) := by
  obtain ⟨self_row, other_rows⟩ := State.mapPeer_at s.joinBegun s.cfg.station
    (PeerRecord.selfJoined s.cfg.role s.ownDeclarations) size (by omega) station
  have peers : s.joinPrepared.peers =
      (s.joinBegun.mapPeer s.cfg.station (PeerRecord.selfJoined s.cfg.role s.ownDeclarations)).peers := by
    simp [State.joinPrepared, if_neg talking, State.selfBegun]; rfl
  refine ⟨?_, ?_, (State.peerAt_congr peers _).trans self_row,
    fun st other => (State.peerAt_congr peers st).trans (other_rows st other)⟩ <;>
    simp [State.joinPrepared, if_neg talking, State.selfBegun, State.joinBegun]

/-- Settles O37: JOIN prepares the session and takes the vote, which with the Level Sender SILENT queues nothing more. -/
theorem joinStartsTheSession : Obligations.JoinStartsTheSession := by
  intro s t port config silent empty off no_sources size station
  have taken : exec (.join t) s = .next ((s.advance t).joinNow.answer .ok) :=
    congrArg Host.Outcome.next (State.configCommand_open port config)
  refine ⟨_, taken, ?_⟩
  generalize ha : s.advance t = a
  have empty_a : a.tx.entries = [] := by rw [← ha]; exact empty
  have line := a.joinPrepared_line empty_a
  obtain ⟨tx', line', announce', sender'⟩ := State.revote_silent (s := a.joinPrepared) (by simpa [← ha] using silent)
  obtain ⟨-, -, factor, -⟩ := a.joinPrepared.revote_output
  have voted := a.joinPrepared.revote_voted
  have raised : a.Raised a.joinPrepared.revote
      [{ kind := .nodeState, count := a.merge.periodCount, detail := some 1, value := some 0 }] :=
    a.joinPrepared.revote_raised.after_records (by simp [a.joinBegun_events (by rw [← ha]; exact config)])
  rw [State.joinNow_eq]
  have seeded := a.joinBegun_line
  have talking := a.joinPrepared_talking
  have queues := fun h => a.joinPrepared_queues h empty_a
  have listening := a.joinPrepared_listening
  have own_entries := a.joinPrepared_sources
  have frame := a.joinPrepared.revote_frame
  simp only [State.joinPrepared_frame] at frame factor sender'
  generalize a.joinPrepared.revote = u at *
  subst ha
  obtain ⟨pending, now, inReset, haltLow, strobes, cfg, store, fifo, peers, sources, players, merge, monitor, node, counters,
    port'⟩ := frame
  refine ⟨now, (congrArg Node.state node).trans (by simp), ?_, ?_, ?_, u.answer_voted voted _ _, factor, ?_, rfl, rfl,
    raised, fun talks => ?_, fun listens => ?_, ?_⟩
  · show u.line.receiveOpen = true
    rw [line', line, seeded]
  · show u.line.echoFails = 0
    rw [line', line, seeded]
  · show u.tx.sequence = 0
    rw [tx']
    by_cases listens : s.cfg.station = 0
    · rw [listening listens]; rfl
    · obtain ⟨-, tx, -⟩ := queues listens
      rw [tx]
  · show u.line = _
    rw [line', line, seeded]
    simp [now]
  · obtain ⟨own, tx, announce⟩ := queues talks
    obtain ⟨blocks, joins, self_row, other_rows⟩ := talking talks size station
    obtain ⟨made, held⟩ := own_entries talks no_sources
    rw [← sources, ← merge] at made held
    rw [← tx'] at own tx
    refine ⟨tx, announce'.trans announce, ?_, node.trans joins, own, own.decls,
      (State.peerAt_congr peers _).trans self_row, fun st other => (State.peerAt_congr peers st).trans (other_rows st other),
      made, fun pass => ?_⟩
    · simp only [State.answer_port, port', blocks, Port.answered]; rfl
    · obtain ⟨none_made, held_back⟩ := held pass
      refine ⟨none_made, held_back, fun idle => ?_⟩
      obtain ⟨v, ends, closed, none_held, joined⟩ :=
        State.ownEntries_held (s := s) (u := u.answer .ok) pass held_back cfg (pending.trans idle)
      exact ⟨v, ends, closed, fun nothing => (none_held nothing).trans none_made, joined⟩
  · rw [listening listens] at tx' announce' peers sources merge node port'
    refine ⟨?_, tx', ?_, announce', peers, sources.trans no_sources, merge⟩
    · simp only [State.answer_frame, node, now]; rfl
    · simp only [State.answer_port, port', Port.answered]; rfl
  · exact State.eq_of_fields pending rfl inReset haltLow strobes cfg store rfl fifo rfl rfl rfl players rfl rfl monitor rfl
      sender' rfl counters rfl rfl

end Sys2Proof.Machine
end

section
namespace Sys2Proof.Machine

/-! ### Departures (R7, R10, R40, R41) -/

theorem ms_eq (n : Nat) : ms n = 10000 * n := Nat.mul_comm n 10000

/-- The VALID entries of a lost station fade with their values (R10). -/
theorem fadeStation_eq (x : Nat) (table : List SourceEntry) : fadeStation x table = table.map fun e => match e.held with
    | .valid v => if e.station = x then { e with held := .fading v } else e
    | _ => e := by
  refine List.map_congr_left fun e _ => ?_
  cases held : e.held <;> simp [SourceEntry.fade, held]

/-- The entries of a declared set that is discarded fade undeclared, and its EMPTY ones are gone (R6, R7). -/
theorem redeclare_nil_eq (x : Nat) (table : List SourceEntry) : redeclare x [] table = table.filterMap fun e =>
    if e.station = x then match e.held with
      | .empty => none
      | .valid v => some { e with held := .fading v, declared := false }
      | .fading v => some { e with held := .fading v, declared := false }
    else some e := by
  rw [redeclare_nil]
  refine List.filterMap_congr fun e _ => ?_
  cases held : e.held <;> simp [SourceEntry.undeclare, SourceEntry.fade, held]

/-- The PLAYING players of a LOOP profile fade when their source departs (R40, R41). -/
theorem orphanedPlayers_eq (st : Store) (x : Nat) (players : List (Option Player)) :
    players.map (Option.map (Player.orphaned st x)) = players.map fun q => q.map fun p =>
      if p.source = x ∧ p.state = .playing ∧ ∃ r, st.profile p.profile = some r ∧ r.endMode = .loop then
        { p with state := .fading, fadeLevel := 8 }
      else p := by
  refine List.map_congr_left fun q _ => congrArg (Option.map · q) (funext fun p => ?_)
  simp only [Player.orphaned, Option.map_eq_some_iff, Config.fullLevel]

/-- How an event ends that has raised these records and then takes the vote, with the queue, the line, the requests and the
settings as they were: with its records and those of the vote, and with the Level Sender told (R65, R69). -/
theorem State.revote_ends {s a : State} {records : List Record} (events : a.events = records.foldl EventUnit.offer s.events)
    (tx : a.tx = s.tx := by simp) (line : a.line = s.line := by simp) (announce : a.announce = s.announce := by simp)
    (cfg : a.cfg = s.cfg := by simp) (output : a.output = s.output := by simp) (sender : a.sender = s.sender := by simp)
    (count : a.merge.periodCount = s.merge.periodCount := by simp) :
    s.Raised a.revote records ∧ a.revote.Voted ∧ s.RequestTold a.revote ∧
      a.revote.sender = { s.sender with pending := a.revote.sender.pending } :=
  ⟨a.revote_raised.after_records events (by rw [output]) (by rw [output]) count, a.revote_voted,
    a.revote_told.congr tx line announce cfg (by rw [output]) (by rw [sender]) (by rw [sender]) (by rw [sender]),
    by rw [← sender]; exact a.revote_sender⟩

/-! ### The peer timers (R99, R107, R109) -/

/-- A peer that is LOST, before the vote (R107). -/
def State.lossMade (s : State) (x : Nat) : State :=
  let losses := satAdd 255 (s.peerAt x).losses 1
  let reported := (s.mapPeer x fun p => { p with link := .lost, losses, silence := none, forget := some s.now }).report
    .peerLost (station := some x) (value := some losses)
  State.orphanPlayers { reported with sources := fadeStation x s.sources } x

/-- A peer that is forgotten, before the vote (R109). -/
def State.forgettingMade (s : State) (x : Nat) : State :=
  let absent := s.mapPeer x fun p =>
    { p with link := .absent, role := none, declared := [], expected := none, forget := none }
  (absent.discardDeclared x).report .peerForgotten (station := some x)

@[simp] theorem State.lossMade_frame (s : State) (x : Nat) :
    (s.lossMade x).pending = s.pending ∧ (s.lossMade x).now = s.now ∧ (s.lossMade x).inReset = s.inReset ∧
    (s.lossMade x).haltLow = s.haltLow ∧ (s.lossMade x).strobes = s.strobes ∧ (s.lossMade x).cfg = s.cfg ∧
    (s.lossMade x).store = s.store ∧ (s.lossMade x).line = s.line ∧ (s.lossMade x).fifo = s.fifo ∧
    (s.lossMade x).announce = s.announce ∧ (s.lossMade x).merge = s.merge ∧ (s.lossMade x).output = s.output ∧
    (s.lossMade x).monitor = s.monitor ∧ (s.lossMade x).tx = s.tx ∧ (s.lossMade x).sender = s.sender ∧
    (s.lossMade x).node = s.node ∧ (s.lossMade x).counters = s.counters ∧ (s.lossMade x).port = s.port := by
  simp [State.lossMade]

@[simp] theorem State.forgettingMade_frame (s : State) (x : Nat) :
    (s.forgettingMade x).pending = s.pending ∧ (s.forgettingMade x).now = s.now ∧
    (s.forgettingMade x).inReset = s.inReset ∧ (s.forgettingMade x).haltLow = s.haltLow ∧
    (s.forgettingMade x).strobes = s.strobes ∧ (s.forgettingMade x).cfg = s.cfg ∧
    (s.forgettingMade x).store = s.store ∧ (s.forgettingMade x).line = s.line ∧ (s.forgettingMade x).fifo = s.fifo ∧
    (s.forgettingMade x).announce = s.announce ∧ (s.forgettingMade x).merge = s.merge ∧
    (s.forgettingMade x).output = s.output ∧ (s.forgettingMade x).monitor = s.monitor ∧
    (s.forgettingMade x).tx = s.tx ∧ (s.forgettingMade x).sender = s.sender ∧ (s.forgettingMade x).node = s.node ∧
    (s.forgettingMade x).counters = s.counters ∧ (s.forgettingMade x).port = s.port := by
  simp [State.forgettingMade]

/-- A change of one station's record, read off the whole table. -/
theorem State.peers_of_mapPeer {s u : State} {x : Nat} {f : PeerRecord → PeerRecord} (h : u.peers = (s.mapPeer x f).peers)
    (size : s.peers.length = 15) (first : 1 ≤ x) (last : x ≤ 15) :
    u.peerAt x = f (s.peerAt x) ∧ ∀ y, y ≠ x → u.peerAt y = s.peerAt y := by
  obtain ⟨own_row, other_rows⟩ := s.mapPeer_at x f size first last
  exact ⟨(State.peerAt_congr h x).trans own_row, fun y other => (State.peerAt_congr h y).trans (other_rows y other)⟩

/-- What a loss makes of the tables. -/
theorem State.lossMade_tables (s : State) (x : Nat) :
    (s.lossMade x).peers = (s.mapPeer x fun p =>
      { p with link := .lost, losses := satAdd 255 (s.peerAt x).losses 1, silence := none, forget := some s.now }).peers ∧
    (s.lossMade x).sources = fadeStation x s.sources ∧
    (s.lossMade x).players = s.players.map (Option.map (Player.orphaned s.store x)) := by
  simp [State.lossMade]

theorem State.lossMade_events (s : State) (x : Nat) : (s.lossMade x).events = s.events.offer
    { kind := .peerLost, count := s.merge.periodCount, station := some x
      value := some ((satAdd 255 (s.peerAt x).losses 1 : Nat) : Int) } := by
  simp [State.lossMade]

/-- What a forgetting makes of the tables. -/
theorem State.forgettingMade_tables (s : State) (x : Nat) :
    (s.forgettingMade x).peers = (s.mapPeer x fun p =>
      { p with link := .absent, role := none, declared := [], expected := none, forget := none }).peers ∧
    (s.forgettingMade x).sources = redeclare x [] s.sources ∧
    (s.forgettingMade x).players = s.players.map (Option.map (Player.orphaned s.store x)) := by
  simp [State.forgettingMade, State.discardDeclared]

theorem State.forgettingMade_events (s : State) (x : Nat) : (s.forgettingMade x).events = s.events.offer
    { kind := .peerForgotten, count := s.merge.periodCount, station := some x } := by
  simp [State.forgettingMade]

theorem State.silenceDue_eq (s : State) (started : Nat) :
    s.silenceDue started = started + 10000 * s.cfg.timing.silence := by rw [State.silenceDue, ms_eq]

theorem State.forgetDue_eq (s : State) (started : Nat) :
    s.forgetDue started = started + 10000 * s.cfg.timing.forget := by rw [State.forgetDue, ms_eq]

theorem State.losePeer_due {s : State} {x started : Nat} (running : (s.peerAt x).silence = some started)
    (due : started + 10000 * s.cfg.timing.silence ≤ s.now) : s.losePeer x = (s.lossMade x).revote := by
  rw [← s.silenceDue_eq] at due
  simp only [State.losePeer, running, if_neg (Nat.not_lt.2 due)]
  simp only [State.report_frame, State.mapPeer_frame, State.lossMade]

theorem State.forgetPeer_due {s : State} {x started : Nat} (running : (s.peerAt x).forget = some started)
    (due : started + 10000 * s.cfg.timing.forget ≤ s.now) : s.forgetPeer x = (s.forgettingMade x).revote := by
  rw [← s.forgetDue_eq] at due
  simp only [State.forgetPeer, running, if_neg (Nat.not_lt.2 due)]
  rfl

theorem State.losePeer_early {s : State} {x started : Nat} (running : (s.peerAt x).silence = some started)
    (early : s.now < started + 10000 * s.cfg.timing.silence) : s.losePeer x = s := by
  rw [← s.silenceDue_eq] at early
  simp only [State.losePeer, running, if_pos early]

theorem State.forgetPeer_early {s : State} {x started : Nat} (running : (s.peerAt x).forget = some started)
    (early : s.now < started + 10000 * s.cfg.timing.forget) : s.forgetPeer x = s := by
  rw [← s.forgetDue_eq] at early
  simp only [State.forgetPeer, running, if_pos early]

/-- An instant that is reached already. -/
theorem State.advance_of_le {s : State} {t : Nat} (h : t ≤ s.now) : s.advance t = s := by
  rw [State.advance, Nat.max_eq_left h]

theorem exec_silenceTimerExpiry {s : State} {x started : Nat} (high : s.inReset = false)
    (running : (s.peerAt x).silence = some started) : exec (.silenceTimerExpiry x) s =
      .next ((s.advance (started + 10000 * s.cfg.timing.silence)).orHold (.silence x)
        ((s.advance (started + 10000 * s.cfg.timing.silence)).losePeer x)) := by
  simp only [exec, execSilenceTimerExpiry, running, State.unlessReset_high high, State.silenceDue_eq]

theorem exec_forgetTimerExpiry {s : State} {x started : Nat} (high : s.inReset = false)
    (running : (s.peerAt x).forget = some started) : exec (.forgetTimerExpiry x) s =
      .next ((s.advance (started + 10000 * s.cfg.timing.forget)).orHold (.forget x)
        ((s.advance (started + 10000 * s.cfg.timing.forget)).forgetPeer x)) := by
  simp only [exec, execForgetTimerExpiry, running, State.unlessReset_high high, State.forgetDue_eq]

/-- As a pass ends, a held expiry of a silence timer is made as its command makes it. -/
theorem State.silence_made {v : State} (x : Nat) (between : v.merge.pass = none) (high : v.inReset = false) :
    (¬(∃ since, (v.peerAt x).silence = some since ∧ v.now < since + 10000 * v.cfg.timing.silence) →
      exec (.silenceTimerExpiry x) v = .next (v.makeHeld (.silence x))) ∧
    ((∃ since, (v.peerAt x).silence = some since ∧ v.now < since + 10000 * v.cfg.timing.silence) →
      v.makeHeld (.silence x) = v) := by
  refine ⟨fun due => ?_, fun ⟨since, running, early⟩ => State.losePeer_early running early⟩
  cases running : (v.peerAt x).silence with
  | none => simp only [exec, execSilenceTimerExpiry, State.makeHeld, State.losePeer, running]
  | some since =>
    have reached := Nat.le_of_not_lt fun early => due ⟨since, running, early⟩
    rw [exec_silenceTimerExpiry high running, State.advance_of_le reached, State.orHold_of_none between]
    rfl

theorem State.forget_made {v : State} (x : Nat) (between : v.merge.pass = none) (high : v.inReset = false) :
    (¬(∃ since, (v.peerAt x).forget = some since ∧ v.now < since + 10000 * v.cfg.timing.forget) →
      exec (.forgetTimerExpiry x) v = .next (v.makeHeld (.forget x))) ∧
    ((∃ since, (v.peerAt x).forget = some since ∧ v.now < since + 10000 * v.cfg.timing.forget) →
      v.makeHeld (.forget x) = v) := by
  refine ⟨fun due => ?_, fun ⟨since, running, early⟩ => State.forgetPeer_early running early⟩
  cases running : (v.peerAt x).forget with
  | none => simp only [exec, execForgetTimerExpiry, State.makeHeld, State.forgetPeer, running]
  | some since =>
    have reached := Nat.le_of_not_lt fun early => due ⟨since, running, early⟩
    rw [exec_forgetTimerExpiry high running, State.advance_of_le reached, State.orHold_of_none between]
    rfl

/-- Settles O47: each expiry makes the peer's change and then takes the vote; in a pass it is held and made by the same rule. -/
theorem peerTimersRunOut : Obligations.PeerTimersRunOut := by
  intro s x high first last size
  refine ⟨fun started between running => ?_, fun started between running => ?_, fun started pass running => ⟨?_, ?_⟩,
    fun started pass running => ⟨?_, ?_⟩, fun started => State.losePeer_early, fun started => State.forgetPeer_early,
    fun stopped => ?_, fun stopped => ?_, fun a gathering => ?_⟩
  · let a := s.advance (started + 10000 * s.cfg.timing.silence)
    have running_a : (a.peerAt x).silence = some started := by rw [State.advance_peerAt]; exact running
    obtain ⟨peers, sources, players⟩ := a.lossMade_tables x
    obtain ⟨own_row, other_rows⟩ := State.peers_of_mapPeer (u := (a.lossMade x).revote) (.trans (by simp) peers)
      size first last
    obtain ⟨raised, voted, told, sender⟩ := State.revote_ends (records := [_]) (a.lossMade_events x)
    rw [State.advance_peerAt] at own_row raised
    refine ⟨(a.lossMade x).revote, ?_, by simp [a], ?_, fun y other => ?_, ?_, ?_, raised, voted, told, sender, ?_⟩
    · rw [exec_silenceTimerExpiry high running, State.orHold_of_none (by exact between),
        State.losePeer_due running_a (by simp [a])]
    · rw [own_row]; simp [satAdd]
    · rw [other_rows y other, State.advance_peerAt]
    · simp only [State.revote_frame, sources]
      exact fadeStation_eq x s.sources
    · simp only [State.revote_frame, players]
      exact orphanedPlayers_eq s.store x s.players
    · apply State.eq_of_fields <;> simp [a]
  · let a := s.advance (started + 10000 * s.cfg.timing.forget)
    have running_a : (a.peerAt x).forget = some started := by rw [State.advance_peerAt]; exact running
    obtain ⟨peers, sources, players⟩ := a.forgettingMade_tables x
    obtain ⟨own_row, other_rows⟩ := State.peers_of_mapPeer (u := (a.forgettingMade x).revote) (.trans (by simp) peers)
      size first last
    obtain ⟨raised, voted, told, sender⟩ := State.revote_ends (records := [_]) (a.forgettingMade_events x)
    rw [State.advance_peerAt] at own_row
    refine ⟨(a.forgettingMade x).revote, ?_, by simp [a], own_row, fun y other => ?_, ?_, ?_, raised, voted, told, sender, ?_⟩
    · rw [exec_forgetTimerExpiry high running, State.orHold_of_none (by exact between),
        State.forgetPeer_due running_a (by simp [a])]
    · rw [other_rows y other, State.advance_peerAt]
    · simp only [State.revote_frame, sources]
      exact redeclare_nil_eq x s.sources
    · simp only [State.revote_frame, players]
      exact orphanedPlayers_eq s.store x s.players
    · apply State.eq_of_fields <;> simp [a]
  · rw [exec_silenceTimerExpiry high running, State.orHold_of_pass (by exact pass)]; rfl
  · refine State.madeAsThePassEnds (s := s.advance _) pass high fun v between high cfg => ?_
    have made := State.silence_made x between high
    rw [cfg] at made; exact made
  · rw [exec_forgetTimerExpiry high running, State.orHold_of_pass (by exact pass)]; rfl
  · refine State.madeAsThePassEnds (s := s.advance _) pass high fun v between high cfg => ?_
    have made := State.forget_made x between high
    rw [cfg] at made; exact made
  · simp only [exec, execSilenceTimerExpiry, stopped]
  · simp only [exec, execForgetTimerExpiry, stopped]
  · obtain ⟨own_row, other_rows⟩ := State.mapPeer_at (s.advance (a.startedAt + 10000 * s.cfg.timing.silence)) x
      (fun p => { p with assembly := none }) size first last
    simp only [State.advance_peerAt] at own_row other_rows
    refine ⟨_, ?_, ?_, own_row, other_rows, ?_⟩
    · simp only [exec, execAssemblyTimeLimit, gathering, State.unlessReset_high high, ms_eq]
    · simp
    · apply State.eq_of_fields <;> simp

end Sys2Proof.Machine
end

section
namespace Sys2Proof.Machine

/-! ### A burst taken from the Receive FIFO (R95, R146) -/

theorem exec_applyBurst {s : State} {f : FifoEntry} {rest : List FifoEntry} (high : s.inReset = false)
    (between : s.merge.pass = none) (fifo : s.fifo = f :: rest) :
    exec .applyBurst s = .next (State.applyEntry { s with fifo := rest } f) := by
  simp only [exec, execApplyBurst, State.unlessReset_high high, State.orHold_of_none between, State.applyOldest, fifo]

/-- A burst of another station: its header steps, its contents, the vote. -/
theorem exec_peerBurst {s : State} {f : FifoEntry} {rest : List FifoEntry} (high : s.inReset = false)
    (between : s.merge.pass = none) (fifo : s.fifo = f :: rest) (named : 1 ≤ f.burst.source) (heard : f.own = false)
    (other : f.burst.source ≠ s.cfg.station) : exec .applyBurst s =
      .next ((State.headerSteps { s with fifo := rest } f.burst).applyContents f).revote := by
  rw [exec_applyBurst high between fifo]
  simp [State.applyEntry, Nat.ne_of_gt named, heard, other]

/-! ### The header steps (R96, R108) -/

/-- A record as steps 1 and 2 of R96 leave it: the request of the header, and the return of a LOST peer. -/
def PeerRecord.returned (b : Burst) (now : Nat) (p : PeerRecord) : PeerRecord :=
  if p.link = .lost ∧ b.payload.returns = true then
    { p with lastRequest := some b.request, link := linkOfHold b.hold, forget := none, silence := some now, expected := none }
  else { p with lastRequest := some b.request }

theorem State.report_peerAt (s : State) (kind : EventKind) (station second channel detail : Option Nat)
    (value : Option Int) (y : Nat) : (s.report kind station second channel detail value).peerAt y = s.peerAt y :=
  State.peerAt_congr rfl y

/-- Step 2 of R96 on a record that has taken the request of the header. -/
theorem State.settleReturn_peers (s : State) (b : Burst) (size : s.peers.length = 15) (first : 1 ≤ b.source)
    (last : b.source ≤ 15) :
    let t := s.mapPeer b.source fun p => { p with lastRequest := some b.request }
    (t.settleReturn b).peerAt b.source = (s.peerAt b.source).returned b s.now ∧
    (∀ y, y ≠ b.source → (t.settleReturn b).peerAt y = s.peerAt y) ∧ (t.settleReturn b).peers.length = 15 ∧
    (t.settleReturn b).events = if (s.peerAt b.source).link = .lost ∧ b.payload.returns = true then
        s.events.offer { kind := .peerReturned, count := s.merge.periodCount, station := some b.source
                         value := some ((lostMs ((s.peerAt b.source).forget.getD s.now) s.now : Nat) : Int) }
      else s.events := by
  obtain ⟨own_row, other_rows⟩ := s.mapPeer_at b.source (fun p => { p with lastRequest := some b.request }) size first last
  dsimp only
  generalize ht : (s.mapPeer b.source fun p => { p with lastRequest := some b.request }) = t at own_row other_rows ⊢
  have size_t : t.peers.length = 15 := by rw [← ht, State.mapPeer_length, size]
  have now : t.now = s.now := by rw [← ht]; simp
  have events : t.events = s.events ∧ t.merge = s.merge := by rw [← ht]; simp
  simp only [State.settleReturn, PeerRecord.returned, own_row]
  split
  · obtain ⟨own_row', other_rows'⟩ := t.mapPeer_at b.source (fun p =>
      { p with link := linkOfHold b.hold, forget := none, silence := some t.now, expected := none }) size_t first last
    refine ⟨?_, fun y other => ?_, by simp [State.mapPeer_length, size_t], by simp [now, events]⟩
    · rw [State.report_peerAt, own_row', own_row, now]
    · rw [State.report_peerAt, other_rows' y other, other_rows y other]
  · exact ⟨own_row, other_rows, size_t, events.1⟩

/-- The header steps change the record of the burst's source alone, and raise PEER_RETURNED alone. -/
theorem State.headerSteps_peers (s : State) (b : Burst) (size : s.peers.length = 15) (first : 1 ≤ b.source)
    (last : b.source ≤ 15) :
    (s.headerSteps b).peerAt b.source = ((s.peerAt b.source).returned b s.now).header b s.now ∧
    (∀ y, y ≠ b.source → (s.headerSteps b).peerAt y = s.peerAt y) ∧ (s.headerSteps b).peers.length = 15 ∧
    (s.headerSteps b).events = if (s.peerAt b.source).link = .lost ∧ b.payload.returns = true then
        s.events.offer { kind := .peerReturned, count := s.merge.periodCount, station := some b.source
                         value := some ((lostMs ((s.peerAt b.source).forget.getD s.now) s.now : Nat) : Int) }
      else s.events := by
  obtain ⟨returned, others, size_r, events⟩ := s.settleReturn_peers b size first last
  have steps : s.headerSteps b = ((s.mapPeer b.source fun p => { p with lastRequest := some b.request }).settleReturn
      b).mapPeer b.source (PeerRecord.header b s.now) := by simp [State.headerSteps]
  generalize (s.mapPeer b.source fun p => { p with lastRequest := some b.request }).settleReturn b = r at *
  obtain ⟨headed, others'⟩ := r.mapPeer_at b.source (PeerRecord.header b s.now) size_r first last
  rw [steps]
  exact ⟨by rw [headed, returned], fun y other => by rw [others' y other, others y other],
    by rw [State.mapPeer_length, size_r], by simp [events]⟩

/-- The header steps of a LEVEL on a record that is not ABSENT (R96, R108). -/
theorem PeerRecord.level_headed {b : Burst} (level : b.payload.isLevel = true) {p : PeerRecord} (heard : p.link ≠ .absent)
    (now : Nat) : (p.returned b now).header b now = { p with
      lastRequest := some b.request
      link := linkOfHold b.hold
      silence := some now
      forget := if p.link = .lost then none else p.forget
      expected := some ((b.seq + 1) % 256)
      gaps := match p.expected with
        | some e => if p.link = .lost then p.gaps else min 65535 (p.gaps + (b.seq + 256 - e) % 256)
        | none => p.gaps } := by
  have returns : b.payload.returns = true := by
    cases h : b.payload <;> rw [h] at level
    case level => rfl
    all_goals cases level
  have hold : (linkOfHold b.hold).heard = true := by cases b.hold <;> rfl
  cases link : p.link with
  | absent => exact absurd link heard
  | lost => cases expected : p.expected <;> simp [PeerRecord.returned, PeerRecord.header, link, returns, level, hold]
  | present =>
    cases expected : p.expected <;>
      simp [PeerRecord.returned, PeerRecord.header, link, level, expected, Link.heard, satAdd, seqGap, Config.counterMax]
  | holding =>
    cases expected : p.expected <;>
      simp [PeerRecord.returned, PeerRecord.header, link, level, expected, Link.heard, satAdd, seqGap, Config.counterMax]

/-- The header steps of an ABSENT peer's burst record its request and nothing else (R96). -/
theorem PeerRecord.absent_headed (b : Burst) {p : PeerRecord} (absent : p.link = .absent) (now : Nat) :
    (p.returned b now).header b now = { p with lastRequest := some b.request } := by
  cases expected : p.expected <;> simp [PeerRecord.returned, PeerRecord.header, absent, expected, Link.heard]

/-! ### The pairs of a LEVEL (R8, R9, R134) -/

/-- The entries as a LEVEL with its pairs in ascending order leaves them: each carried channel that is taken has its entry VALID. -/
theorem setValid_fold (x : Nat) (taken : Nat → Bool) (count : Count) {pairs : List (Nat × Int)}
    (ascending : pairs.Pairwise fun a b => a.1 < b.1) (table : List SourceEntry) :
    pairs.foldl (fun tbl p => if taken p.1 then setValid x p.1 p.2 count tbl else tbl) table =
      table.map fun e => match pairs.find? fun q => q.1 == e.channel with
        | some q => if e.station = x ∧ taken e.channel = true
            then { e with held := .valid (if q.2 = -32768 then -32767 else q.2), lastUpdate := some count }
            else e
        | none => e := by
  induction pairs generalizing table with
  | nil => simp
  | cons p pairs ih =>
    obtain ⟨first, ascending⟩ := List.pairwise_cons.1 ascending
    have step : (if taken p.1 then setValid x p.1 p.2 count table else table) = table.map fun e =>
        if e.station = x ∧ e.channel = p.1 ∧ taken p.1 = true then
          { e with held := .valid (takeCue p.2), lastUpdate := some count } else e := by
      cases h : taken p.1 <;> simp [setValid, SourceEntry.keyed]
    rw [List.foldl_cons, ih ascending, step, List.map_map]
    refine List.map_congr_left fun e _ => ?_
    have later (channel : e.channel = p.1) : pairs.find? (fun q => q.1 == e.channel) = none := by
      rw [List.find?_eq_none]
      intro q hq
      have := first q hq
      simp; omega
    by_cases sets : e.station = x ∧ e.channel = p.1 ∧ taken p.1 = true
    · obtain ⟨station, channel, takes⟩ := sets
      have later := later channel
      rw [channel] at later
      simp [station, channel, takes, later, takeCue]
    · simp only [Function.comp_apply, if_neg sets]
      by_cases channel : e.channel = p.1
      · rw [later channel, List.find?_cons_of_pos (by simp [channel])]
        exact (if_neg fun ⟨station, takes⟩ => sets ⟨station, channel, channel ▸ takes⟩).symm
      · rw [List.find?_cons_of_neg (by simpa using Ne.symm channel)]

/-! ### A LEVEL of a peer (R8, R103, R108) -/

/-- What an event told of a re-announce does not rest on: the Receive FIFO, the Source Table, the players and the event queue. -/
theorem State.AnnounceTold.of_tables {s u : State} {fifo : List FifoEntry} {sources : List SourceEntry}
    {players : List (Option Player)} {events : EventUnit}
    (h : State.AnnounceTold { s with fifo, sources, players, events } u) : s.AnnounceTold u := h

/-- An unannounced burst: the undeclared count takes one more, and a re-announce is asked for (R103). -/
theorem State.applyUnannounced_told (s : State) (x : Nat) :
    State.AnnounceTold { s with peers := (s.countUndeclared x).peers } (s.applyUnannounced x).revote := by
  have counted : s.countUndeclared x = { s with peers := (s.countUndeclared x).peers } := by
    apply State.eq_of_fields <;> simp
  rw [← counted]
  exact (s.countUndeclared x).requestAnnounce_told

theorem State.applyUnannounced_peers (s : State) (x : Nat) : (s.applyUnannounced x).peers =
    (s.mapPeer x fun p => { p with undeclared := satAdd Config.counterMax p.undeclared 1 }).peers := by
  simp [State.applyUnannounced, State.countUndeclared]

/-- The LEVEL of a peer that is not ABSENT is applied pair by pair. -/
theorem State.level_contents {s : State} {f : FifoEntry} {pairs : List (Nat × Int)} (level : f.burst.payload = .level pairs)
    (size : s.peers.length = 15) (first : 1 ≤ f.burst.source) (last : f.burst.source ≤ 15)
    (present : (s.peerAt f.burst.source).link ≠ .absent) :
    (s.headerSteps f.burst).applyContents f = pairs.foldl (State.applyPair f.burst.source) (s.headerSteps f.burst) := by
  obtain ⟨headed, -⟩ := s.headerSteps_peers f.burst size first last
  rw [PeerRecord.level_headed (by rw [level]; rfl) present] at headed
  simp only [State.applyContents, level, headed]
  exact if_neg (by cases f.burst.hold <;> simp [linkOfHold])

/-- The LEVEL of an ABSENT peer is unannounced. -/
theorem State.unannounced_contents {s : State} {f : FifoEntry} {pairs : List (Nat × Int)}
    (level : f.burst.payload = .level pairs) (size : s.peers.length = 15) (first : 1 ≤ f.burst.source)
    (last : f.burst.source ≤ 15) (absent : (s.peerAt f.burst.source).link = .absent) :
    (s.headerSteps f.burst).applyContents f = (s.headerSteps f.burst).applyUnannounced f.burst.source := by
  obtain ⟨headed, -⟩ := s.headerSteps_peers f.burst size first last
  rw [PeerRecord.absent_headed _ absent] at headed
  simp only [State.applyContents, level, headed, absent, if_true]

/-- The tables after the LEVEL of a peer that is not ABSENT (R8, R96, R108). -/
theorem State.level_tables {s : State} {b : Burst} {pairs : List (Nat × Int)} (level : b.payload = .level pairs)
    (size : s.peers.length = 15) (first : 1 ≤ b.source) (last : b.source ≤ 15)
    (present : (s.peerAt b.source).link ≠ .absent) (ascending : pairs.Pairwise fun a b => a.1 < b.1) :
    let u := pairs.foldl (State.applyPair b.source) (s.headerSteps b)
    let p := s.peerAt b.source
    let declared := fun c => p.declared.any fun d => d.1 == c
    u.peerAt b.source = { p with
      lastRequest := some b.request
      link := if b.hold then .holding else .present
      silence := some s.now
      forget := if p.link = .lost then none else p.forget
      expected := some ((b.seq + 1) % 256)
      gaps := match p.expected with
        | some e => if p.link = .lost then p.gaps else min 65535 (p.gaps + (b.seq + 256 - e) % 256)
        | none => p.gaps
      undeclared := (pairs.filter fun q => !declared q.1).foldl (fun n _ => min 65535 (n + 1)) p.undeclared } ∧
    (∀ y, y ≠ b.source → u.peerAt y = s.peerAt y) ∧
    u.sources = (s.sources.map fun e => match pairs.find? fun q => q.1 == e.channel with
      | some q => if e.station = b.source ∧ declared e.channel = true
          then { e with held := .valid (if q.2 = -32768 then -32767 else q.2), lastUpdate := some s.merge.periodCount }
          else e
      | none => e) := by
  obtain ⟨headed, others, size_h, -⟩ := s.headerSteps_peers b size first last
  rw [PeerRecord.level_headed (by rw [level]; rfl) present] at headed
  obtain ⟨own_row, other_rows, sources⟩ := applyPairs_fold b.source first last
    (fun c => (s.peerAt b.source).declared.any fun d => d.1 == c) pairs (s.headerSteps b) size_h (by rw [headed]; simp)
  refine ⟨?_, fun y other => (other_rows y other).trans (others y other), ?_⟩
  · rw [own_row, headed]; rfl
  · rw [sources]
    simp only [State.headerSteps_frame]
    exact setValid_fold b.source (fun c => (s.peerAt b.source).declared.any fun d => d.1 == c) s.merge.periodCount
      ascending s.sources

/-- How the LEVEL of a peer that is not ABSENT ends: PEER_RETURNED for a LOST one, and the vote (R65, R69, R108). -/
theorem State.level_ends {s : State} {b : Burst} {pairs : List (Nat × Int)} (level : b.payload = .level pairs)
    (size : s.peers.length = 15) (first : 1 ≤ b.source) (last : b.source ≤ 15) :
    let u := (pairs.foldl (State.applyPair b.source) (s.headerSteps b)).revote
    let p := s.peerAt b.source
    (p.link ≠ .lost → s.Raised u []) ∧
    (p.link = .lost → ∀ lostAt, p.forget = some lostAt → s.Raised u [
      { kind := .peerReturned, count := s.merge.periodCount, station := some b.source
        value := some ((min 32767 ((s.now - lostAt) / 10000) : Nat) : Int) }]) ∧
    s.RequestTold u ∧ u.sender = { s.sender with pending := u.sender.pending } := by
  obtain ⟨-, -, -, events⟩ := s.headerSteps_peers b size first last
  rw [level] at events
  generalize hv : pairs.foldl (State.applyPair b.source) (s.headerSteps b) = v
  have same : v.events = (s.headerSteps b).events ∧ v.tx = s.tx ∧ v.line = s.line ∧ v.announce = s.announce ∧ v.cfg = s.cfg ∧
      v.output = s.output ∧ v.sender = s.sender ∧ v.merge = s.merge := by simp [← hv]
  obtain ⟨events_v, tx, line, announce, cfg, output, sender, merge⟩ := same
  refine ⟨fun not_lost => ?_, fun lost lostAt since => ?_, ?_, ?_⟩
  · rw [if_neg fun h => not_lost h.1] at events
    exact v.revote_raised.after_records (events_v.trans events) (by rw [output]) (by rw [output]) (by rw [merge])
  · rw [if_pos ⟨lost, rfl⟩, since] at events
    exact v.revote_raised.after_records (events_v.trans events) (by rw [output]) (by rw [output]) (by rw [merge])
  · exact v.revote_told.congr tx line announce cfg (by rw [output]) (by rw [sender]) (by rw [sender]) (by rw [sender])
  · rw [← sender]; exact v.revote_sender

/-- The LEVEL of an ABSENT peer: its record, and the re-announce asked for before the vote (R96, R103). -/
theorem State.unannounced_ends {s : State} {b : Burst} (size : s.peers.length = 15) (first : 1 ≤ b.source)
    (last : b.source ≤ 15) (absent : (s.peerAt b.source).link = .absent) :
    let u := ((s.headerSteps b).applyUnannounced b.source).revote
    let p := s.peerAt b.source
    u.peerAt b.source = { p with lastRequest := some b.request, undeclared := min 65535 (p.undeclared + 1) } ∧
    (∀ y, y ≠ b.source → u.peerAt y = s.peerAt y) ∧ s.Raised u [] ∧ State.AnnounceTold { s with peers := u.peers } u ∧
    u.sender = { s.sender with pending := u.sender.pending } := by
  obtain ⟨headed, others, size_h, events⟩ := s.headerSteps_peers b size first last
  rw [PeerRecord.absent_headed _ absent] at headed
  rw [if_neg (by simp [absent])] at events
  obtain ⟨own_row, other_rows⟩ := State.peers_of_mapPeer (u := ((s.headerSteps b).applyUnannounced b.source).revote)
    (.trans (by simp) (State.applyUnannounced_peers _ b.source)) size_h first last
  have told := State.applyUnannounced_told (s.headerSteps b) b.source
  have sender := ((s.headerSteps b).applyUnannounced b.source).revote_sender
  refine ⟨by rw [own_row, headed]; rfl, fun y other => (other_rows y other).trans (others y other),
    (State.revote_raised _).after_records (by simp [events]), ?_, by simpa using sender⟩
  have peers : ((s.headerSteps b).applyUnannounced b.source).revote.peers = ((s.headerSteps b).countUndeclared b.source).peers := by
    simp [State.applyUnannounced]
  rw [peers]
  refine .of_tables (fifo := s.fifo) (sources := s.sources) (players := s.players) (events := (s.headerSteps b).events) ?_
  simpa using told

/-- Settles O56: the header steps, then the pairs of a peer that is heard, or the request for a re-announce; then the vote. -/
theorem peerLevelIsApplied : Obligations.PeerLevelIsApplied := by
  intro s x seq request hold pairs instant rest high between size first last other fifo ascending
  let b : Burst := { source := x, seq, request, hold, payload := .level pairs }
  let f : FifoEntry := { burst := b, endInstant := instant, own := false }
  let taken : State := { s with fifo := rest }
  have applied : exec .applyBurst s = .next ((taken.headerSteps b).applyContents f).revote :=
    exec_peerBurst (f := f) high between fifo first rfl other
  by_cases absent : (taken.peerAt x).link = .absent
  · have contents : exec .applyBurst s = .next ((taken.headerSteps b).applyUnannounced x).revote := by
      rw [applied, ← State.unannounced_contents (s := taken) (f := f) rfl size first last absent]
    have ends := State.unannounced_ends (s := taken) (b := b) size first last absent
    have voted := ((taken.headerSteps b).applyUnannounced x).revote_voted
    have frame : let u := ((taken.headerSteps b).applyUnannounced x).revote
        u = { taken with line := u.line, peers := u.peers, announce := u.announce, sources := u.sources, output := u.output
                         tx := u.tx, sender := u.sender, events := u.events } ∧ u.sources = s.sources := by
      refine ⟨?_, by simp [taken, State.applyUnannounced]⟩
      apply State.eq_of_fields <;> simp [State.applyUnannounced]
    dsimp only [b] at ends
    generalize ((taken.headerSteps b).applyUnannounced x).revote = u at *
    obtain ⟨own_row, other_rows, raised, told, sender⟩ := ends
    exact ⟨u, contents, by rw [frame.1], ⟨fun present => absurd absent present, fun _ => ⟨own_row, frame.2, raised, told⟩⟩,
      other_rows, voted, sender, frame.1⟩
  · have contents : exec .applyBurst s = .next (pairs.foldl (State.applyPair x) (taken.headerSteps b)).revote := by
      rw [applied, ← State.level_contents (s := taken) (f := f) rfl size first last absent]
    have tables := State.level_tables (s := taken) (b := b) rfl size first last absent ascending
    have ends := State.level_ends (s := taken) (b := b) rfl size first last
    have voted := (pairs.foldl (State.applyPair x) (taken.headerSteps b)).revote_voted
    have frame : let u := (pairs.foldl (State.applyPair x) (taken.headerSteps b)).revote
        u = { taken with line := u.line, peers := u.peers, announce := u.announce, sources := u.sources, output := u.output
                         tx := u.tx, sender := u.sender, events := u.events } := by
      apply State.eq_of_fields <;> simp
    dsimp only [b] at ends tables
    generalize pairs.foldl (State.applyPair x) (taken.headerSteps b) = v at *
    have peers (y : Nat) : v.revote.peerAt y = v.peerAt y := State.peerAt_congr (by simp) y
    have same : v.revote.sources = v.sources := by simp
    generalize v.revote = u at *
    obtain ⟨own_row, other_rows, sources⟩ := tables
    obtain ⟨silent, returned, told, sender⟩ := ends
    refine ⟨u, contents, by rw [frame], ⟨fun _ => ⟨?_, ?_, ?_, ?_, ?_⟩, fun h => absurd h absent⟩, ?_, voted, sender, frame⟩
    · exact (peers x).trans own_row
    · exact same.trans sources
    · exact silent
    · exact returned
    · exact told
    · exact fun y other => (peers y).trans (other_rows y other)

end Sys2Proof.Machine
end

section
namespace Sys2Proof.Machine

/-! ### The declared set of a group (R100) -/

theorem rankIn_reverse_iff (decls : List Declaration) (c q : Nat) : rankIn decls.reverse c = some q ↔
    ∃ before after, decls = before ++ (c, q) :: after ∧ ∀ d ∈ after, d.1 ≠ c := by
  simp only [rankIn, Option.map_eq_some_iff, List.find?_eq_some_iff_append]
  constructor
  · rintro ⟨⟨c', q'⟩, ⟨named, after, before, split, others⟩, rfl⟩
    obtain rfl : c' = c := by simpa using named
    refine ⟨before.reverse, after.reverse, by rw [← List.reverse_reverse decls, split]; simp, fun d hd => ?_⟩
    simpa using others d (by simpa using hd)
  · rintro ⟨before, after, rfl, others⟩
    exact ⟨(c, q), ⟨by simp, after.reverse, before.reverse, by simp, fun d hd => by simpa using others d (by simpa using hd)⟩, rfl⟩

theorem declaredSet_ascending (decls : List Declaration) : (declaredSet decls).Pairwise fun a b => a.1 < b.1 := by
  refine List.Pairwise.filterMap _ (fun c c' before d hd d' hd' => ?_) List.pairwise_lt_range
  simp only [Option.map_eq_some_iff] at hd hd'
  obtain ⟨r, -, rfl⟩ := hd
  obtain ⟨r', -, rfl⟩ := hd'
  exact before

theorem mem_declaredSet_iff (decls : List Declaration) (c r : Nat) : (c, r) ∈ declaredSet decls ↔ c ≤ 15 ∧
    ∃ before q after, decls = before ++ (c, q) :: after ∧ (∀ d ∈ after, d.1 ≠ c) ∧ r = min 7 q := by
  have named : (c, r) ∈ declaredSet decls ↔ c < 16 ∧ ∃ q, rankIn decls.reverse c = some q ∧ r = min 7 q := by
    simp only [declaredSet, List.mem_filterMap, List.mem_range, Option.map_eq_some_iff, Prod.mk.injEq]
    constructor
    · rintro ⟨c', low, q, ranked, rfl, rfl⟩
      exact ⟨low, q, ranked, Nat.min_comm q 7⟩
    · rintro ⟨low, q, ranked, rfl⟩
      exact ⟨c, low, q, ranked, rfl, Nat.min_comm q 7⟩
  simp only [named, rankIn_reverse_iff]
  constructor
  · rintro ⟨low, q, ⟨before, after, split, others⟩, rank⟩
    exact ⟨by omega, before, q, after, split, others, rank⟩
  · rintro ⟨low, before, q, after, split, others, rank⟩
    exact ⟨by omega, q, ⟨before, after, split, others⟩, rank⟩

theorem roleCode_ofCode {role : Nat} (first : 1 ≤ role) (last : role ≤ 5) : roleCode (Role.ofCode role) = role := by
  interval_cases role <;> rfl

theorem Role.ofCode_none {role : Nat} (outside : role = 0 ∨ 5 < role) : Role.ofCode role = none := by
  match role, outside with
  | 0, _ => rfl
  | 1, h | 2, h | 3, h | 4, h | 5, h => omega
  | _ + 6, _ => rfl

/-- A declared set on the Source Table: a declared entry takes the new rank, another is undeclared or removed, and the channels
with no entry get an EMPTY one (R5, R6). -/
theorem redeclare_eq (x : Nat) (set : List Declaration) (table : List SourceEntry) : redeclare x set table =
    (table.filterMap fun e =>
      if e.station = x then match set.find? fun d => d.1 == e.channel with
        | some d => some { e with rank := d.2, declared := true }
        | none => match e.held with
          | .empty => none
          | .valid v => some { e with held := .fading v, declared := false }
          | .fading v => some { e with held := .fading v, declared := false }
      else some e) ++
    ((set.filter fun d => !table.any fun e => e.station == x && e.channel == d.1).map fun d => {
      station := x, channel := d.1, held := .empty, rank := d.2, declared := true, lastUpdate := none }) := by
  simp only [redeclare, rankIn, SourceEntry.keyed]
  refine congrArg₂ _ (List.filterMap_congr fun e _ => ?_) rfl
  split
  · cases set.find? fun d => d.1 == e.channel with
    | some d => rfl
    | none =>
      obtain ⟨_, _, held, _, _, _⟩ := e
      cases held <;> rfl
  · rfl

/-! ### The records of a group (R101, R102) -/

/-- The RANK_CONFLICT records of a completing peer, read off the records of the other stations. -/
def State.conflictRecords (s : State) (x : Nat) (set : List Declaration) : List Record :=
  set.flatMap fun d => ((List.range 15).map (· + 1)).filterMap fun st =>
    if st ≠ x ∧ (s.peerAt st).link ≠ .absent ∧ d ∈ (s.peerAt st).declared then
      some { kind := .rankConflict, count := s.merge.periodCount, station := some x, second := some st
             channel := some d.1, value := some (d.2 : Int) }
    else none

theorem foldl_reportConflict_events (x : Nat) (hits : List (Nat × Declaration)) (s : State) :
    (hits.foldl (fun s h => s.report .rankConflict (station := some x) (second := some h.1) (channel := some h.2.1)
      (value := some h.2.2)) s).events = (hits.map fun h => { kind := .rankConflict, count := s.merge.periodCount
                                                              station := some x, second := some h.1
                                                              channel := some h.2.1, value := some (h.2.2 : Int) }).foldl
      EventUnit.offer s.events := by
  induction hits generalizing s with
  | nil => rfl
  | cons h hits ih => rw [List.foldl_cons, ih]; rfl

theorem State.reportConflicts_events (s : State) (x : Nat) (set : List Declaration) :
    (s.reportConflicts x set).events = (s.conflictRecords x set).foldl EventUnit.offer s.events := by
  simp only [State.reportConflicts, foldl_reportConflict_events, State.conflictRecords, List.map_flatMap]
  congr 1
  refine List.flatMap_congr fun d _ => ?_
  rw [List.map_map, ← List.filterMap_eq_map, ← List.filterMap_eq_filter, List.filterMap_filterMap]
  refine List.filterMap_congr fun st _ => ?_
  by_cases conflict : st ≠ x ∧ (s.peerAt st).link ≠ .absent ∧ d ∈ (s.peerAt st).declared
  · simp [Option.guard, conflict]
  · rw [if_neg conflict]
    simpa [Option.guard] using fun _ other link declared => absurd ⟨other, link, declared⟩ conflict

/-! ### A group that completes (R99 to R103) -/

/-- The records of a completing group: PEER_JOINED, then its conflicts. -/
def State.groupRecords (s : State) (x : Nat) (role : Option Role) (set : List Declaration) : List Record :=
  { kind := .peerJoined, count := s.merge.periodCount, station := some x
    detail := some (if (s.peerAt x).link = .absent then 0 else 1), value := some (roleCode role : Int) } ::
    s.conflictRecords x set

theorem State.conflictRecords_congr {s t : State} {x : Nat} (peers : ∀ y, y ≠ x → t.peerAt y = s.peerAt y)
    (count : t.merge.periodCount = s.merge.periodCount) (set : List Declaration) :
    t.conflictRecords x set = s.conflictRecords x set := by
  refine List.flatMap_congr fun d _ => List.filterMap_congr fun st _ => ?_
  by_cases other : st = x
  · simp [other]
  · rw [peers st other, count]

/-- The tables and the records after a group has been taken. -/
theorem State.groupTaken_tables (s : State) (x : Nat) (a : Assembly) (size : s.peers.length = 15) (first : 1 ≤ x)
    (last : x ≤ 15) :
    let u := s.groupTaken x a
    let set := declaredSet a.decls
    u.peers = (s.mapPeer x (PeerRecord.completed (Role.ofCode a.role) set s.now)).peers ∧
    u.sources = redeclare x set s.sources ∧
    u.events = (s.groupRecords x (Role.ofCode a.role) set).foldl EventUnit.offer s.events ∧
    u = { s with peers := u.peers, sources := u.sources, events := u.events } := by
  dsimp only
  refine ⟨by simp [State.groupTaken], by simp [State.groupTaken], ?_, ?_⟩
  · simp only [State.groupTaken, State.reportConflicts_events, State.groupRecords, List.foldl_cons]
    rw [State.conflictRecords_congr (s := s) (fun y other => ?_) (by simp)]
    · simp [State.report]
    · exact (State.peerAt_congr rfl y).trans ((s.mapPeer_at x _ size first last).2 y other)
  · apply State.eq_of_fields <;> simp [State.groupTaken]

/-- The header steps of a page record its request and its gaps; the timers and the sequence start anew as the group completes. -/
theorem PeerRecord.page_completed {b : Burst} (page : b.payload.kind = 1) (role : Option Role) (set : List Declaration)
    (now : Nat) (p : PeerRecord) : ((p.returned b now).header b now).completed role set now = { p with
      link := .present, role, declared := set, lastRequest := some b.request
      silence := some now, forget := none, expected := none, assembly := none
      gaps := match p.expected with
        | some e => if p.link = .absent then p.gaps else min 65535 (p.gaps + (b.seq + 256 - e) % 256)
        | none => p.gaps } := by
  have stays : b.payload.returns = false := by
    cases h : b.payload <;> rw [h] at page
    case page0 | page => rfl
    all_goals cases page
  simp only [PeerRecord.returned, stays, PeerRecord.header, PeerRecord.completed, satAdd, seqGap, Config.counterMax,
    Bool.false_eq_true, and_false, if_false]
  cases heard : p.link.heard <;> rfl

/-- The only page of a group, or the last one its assembly expects, completes it (R98, R99). -/
theorem State.page_contents {s : State} {f : FifoEntry} {role : Nat} {known : BitVec 16} {decls : List Declaration}
    (size : s.peers.length = 15) (first : 1 ≤ f.burst.source) (last : f.burst.source ≤ 15)
    (page : f.burst.payload = .page0 1 role known decls ∨
      ∃ a last, f.burst.payload = .page a.next a.expected last ∧ (s.peerAt f.burst.source).assembly = some a ∧
        a.next + 1 = a.expected ∧ role = a.role ∧ known = a.known ∧ decls = a.decls ++ last) :
    f.burst.payload.kind = 1 ∧ ∃ a : Assembly, a.role = role ∧ a.known = known ∧ a.decls = decls ∧
      (s.headerSteps f.burst).applyContents f = (s.headerSteps f.burst).completeGroup f.burst.source a := by
  rcases page with only | ⟨a, tail, final, gathered, complete, rfl, rfl, rfl⟩
  · exact ⟨by rw [only]; rfl, _, rfl, rfl, rfl, by simp only [State.applyContents, only, State.takeAssembly]; rfl⟩
  · obtain ⟨headed, -⟩ := s.headerSteps_peers f.burst size first last
    have kept : ((s.headerSteps f.burst).peerAt f.burst.source).assembly = some a := by
      rw [headed, ← gathered]
      simp only [PeerRecord.returned, PeerRecord.header]
      (repeat' split) <;> rfl
    refine ⟨by rw [final]; rfl, { a with decls := a.decls ++ tail, next := a.next + 1 }, rfl, rfl, rfl, ?_⟩
    simp only [State.applyContents, final, State.applyPage, kept, and_self, if_true, State.takeAssembly, complete]

/-- The header steps of a page keep the peer's link and raise nothing. -/
theorem State.page_headerSteps {s : State} {b : Burst} (page : b.payload.kind = 1) (size : s.peers.length = 15)
    (first : 1 ≤ b.source) (last : b.source ≤ 15) :
    ((s.headerSteps b).peerAt b.source).link = (s.peerAt b.source).link ∧ (s.headerSteps b).events = s.events := by
  obtain ⟨headed, -, -, events⟩ := s.headerSteps_peers b size first last
  have stays : b.payload.returns = false ∧ b.payload.isLevel = false := by
    cases h : b.payload <;> rw [h] at page
    case page0 | page => exact ⟨rfl, rfl⟩
    all_goals cases page
  refine ⟨?_, by rw [events, if_neg (by simp [stays])]⟩
  rw [headed]
  simp only [PeerRecord.returned, PeerRecord.header, stays, Bool.false_eq_true, and_false, if_false]
  split <;> rfl

/-- The tables and the records of a completing group, read off the state before its last page. -/
theorem State.pageTaken_tables {s : State} {b : Burst} (page : b.payload.kind = 1) (a : Assembly)
    (size : s.peers.length = 15) (first : 1 ≤ b.source) (last : b.source ≤ 15) :
    let u := (s.headerSteps b).groupTaken b.source a
    let p := s.peerAt b.source
    let role := Role.ofCode a.role
    let set := declaredSet a.decls
    u.peerAt b.source = { p with
      link := .present, role, declared := set, lastRequest := some b.request
      silence := some s.now, forget := none, expected := none, assembly := none
      gaps := match p.expected with
        | some e => if p.link = .absent then p.gaps else min 65535 (p.gaps + (b.seq + 256 - e) % 256)
        | none => p.gaps } ∧
    (∀ y, y ≠ b.source → u.peerAt y = s.peerAt y) ∧ u.sources = redeclare b.source set s.sources ∧
    u.events = (s.groupRecords b.source role set).foldl EventUnit.offer s.events ∧
    u = { s with peers := u.peers, sources := u.sources, events := u.events } := by
  obtain ⟨headed, others, size_h, -⟩ := s.headerSteps_peers b size first last
  obtain ⟨link, events_h⟩ := State.page_headerSteps page size first last
  obtain ⟨peers, sources, events, frame⟩ := (s.headerSteps b).groupTaken_tables b.source a size_h first last
  obtain ⟨own_row, other_rows⟩ := State.peers_of_mapPeer peers size_h first last
  dsimp only
  refine ⟨?_, fun y other => (other_rows y other).trans (others y other), by rw [sources]; simp, ?_, ?_⟩
  · rw [own_row, headed, ← PeerRecord.page_completed page]; simp
  · rw [events, events_h]
    simp only [State.groupRecords, link, State.conflictRecords_congr others (by simp), State.headerSteps_frame]
  · rw [frame]
    apply State.eq_of_fields <;> simp

/-- How the completion of a group ends: the re-announce its known mask asks for, and the vote (R69, R103). -/
theorem State.completeGroup_ends {s g : State} {x : Nat} {a : Assembly} {records : List Record}
    {peers : List PeerRecord} {sources : List SourceEntry} {events : EventUnit} {t : State}
    (taken : t.groupTaken x a = g) (cfg : t.cfg = s.cfg) (tables : g = { s with peers, sources, events })
    (raised : events = records.foldl EventUnit.offer s.events) :
    let u := (t.completeGroup x a).revote
    u.peers = peers ∧ u.sources = sources ∧ s.Raised u records ∧ u.Voted ∧
    (a.known.getLsbD s.cfg.station = true → s.RequestTold u) ∧
    (a.known.getLsbD s.cfg.station = false → State.AnnounceTold { s with peers := u.peers } u) ∧
    u.sender = { s.sender with pending := u.sender.pending } ∧
    u = { s with line := u.line, peers := u.peers, announce := u.announce, sources := u.sources, output := u.output, tx := u.tx
                 sender := u.sender, events := u.events } := by
  rw [State.completeGroup_eq, taken, cfg, tables]
  cases known : a.known.getLsbD s.cfg.station
  · have told := State.requestAnnounce_told { s with peers, sources, events }
    have sender := (State.requestAnnounce { s with peers, sources, events }).revote_sender
    refine ⟨by simp, by simp, (State.revote_raised _).after_records (by simpa using raised), State.revote_voted _, by simp,
      fun _ => ?_, by simpa using sender, ?_⟩
    · refine .of_tables (fifo := s.fifo) (sources := sources) (players := s.players) (events := events) ?_
      simpa using told
    · apply State.eq_of_fields <;> simp
  · obtain ⟨records_raised, voted, told, sender⟩ := State.revote_ends (s := s) (a := { s with peers, sources, events }) raised
    refine ⟨by simp, by simp, records_raised, voted, fun _ => told, by simp, sender, ?_⟩
    apply State.eq_of_fields <;> simp

/-- Settles O60: the last page's header steps, then the group taken whole, then the re-announce and the vote. -/
theorem groupCompletes : Obligations.GroupCompletes := by
  intro s f rest role known decls high between size fifo heard first last other x p page
  obtain ⟨kind, a, rfl, rfl, rfl, contents⟩ := State.page_contents (s := { s with fifo := rest }) size first last page
  have applied : exec .applyBurst s =
      .next ((State.headerSteps { s with fifo := rest } f.burst).completeGroup f.burst.source a).revote := by
    rw [exec_peerBurst high between fifo first heard other, contents]
  obtain ⟨own_row, other_rows, sources, events, frame⟩ :=
    State.pageTaken_tables (s := { s with fifo := rest }) kind a size first last
  have ends := State.completeGroup_ends rfl (by simp) frame events
  generalize ((State.headerSteps { s with fifo := rest } f.burst).completeGroup f.burst.source a).revote = u at *
  generalize (State.headerSteps { s with fifo := rest } f.burst).groupTaken f.burst.source a = g at *
  obtain ⟨peers, table, raised, voted, told, asked, sender, frame_u⟩ := ends
  have rows (y : Nat) : u.peerAt y = g.peerAt y := State.peerAt_congr peers y
  have set : (u.peerAt x).declared = declaredSet a.decls :=
    congrArg PeerRecord.declared ((rows x).trans own_row)
  have named : (u.peerAt x).role = Role.ofCode a.role := congrArg PeerRecord.role ((rows x).trans own_row)
  refine ⟨u, applied, congrArg State.fifo frame_u, voted, fun y other => (rows y).trans (other_rows y other), ?_, told, asked, sender,
    frame_u⟩
  dsimp only
  rw [set, named]
  refine ⟨declaredSet_ascending _, mem_declaredSet_iff _, roleCode_ofCode, fun outside => Role.ofCode_none outside,
    (rows x).trans own_row, table.trans (sources.trans (redeclare_eq x _ s.sources)), raised⟩

end Sys2Proof.Machine
end

section
namespace Sys2Proof.Machine

/-! ### A vote that changes nothing (R65, R69, R71) -/

/-- The requests and the effective mode are what their inputs give, and the stage is turned to them. -/
def State.Settled (s : State) : Prop :=
  s.Voted ∧ (s.output.stage = .live ∨ s.output.stage = .rising ↔ s.output.effective = .live ∧ s.node.state = .active)

theorem State.revote_settled {s : State} (h : s.Settled) : s.revote = s := by
  obtain ⟨⟨request, effective⟩, stage⟩ := h
  have formed : s.formRequest = s := if_pos request.symm
  have evaluated : s.evaluateMode = s := if_pos effective.symm
  have rises : s.mayRise = true ↔ s.output.stage = .live ∨ s.output.stage = .rising := by simp [State.mayRise, stage]
  have turned : s.turnStage = s := by
    simp only [State.turnStage]
    cases now : s.output.stage <;> simp [rises, now]
  rw [State.revote, formed, evaluated, turned]

theorem State.revote_settles (s : State) : s.revote.Settled :=
  ⟨s.revote_voted, by rw [s.revote_stage]; simp⟩

theorem State.peers_eq_rows {s : State} (size : s.peers.length = 15) : s.peers = stations.map s.peerAt := by
  refine List.ext_getElem (by simp [size, stations]) fun n low _ => ?_
  simp [stations, State.peerAt, low]

/-- A record that votes and counts for a role as another does (R66 to R68). -/
def PeerRecord.VotesAs (q p : PeerRecord) : Prop := q.vote = p.vote ∧ q.self = p.self ∧ q.link = p.link ∧ q.role = p.role

/-- An ABSENT station has no vote, whatever its request. -/
theorem PeerRecord.absent_votesAs {p : PeerRecord} (absent : p.link = .absent) (request : Option Mode) :
    PeerRecord.VotesAs { p with lastRequest := request } p :=
  ⟨by simp [PeerRecord.vote, absent], rfl, rfl, rfl⟩

theorem State.formEffective_of_rows {s t : State} (size : s.peers.length = 15) (size' : t.peers.length = 15)
    (rows : ∀ y, (t.peerAt y).VotesAs (s.peerAt y)) (cfg : t.cfg = s.cfg)
    (request : t.output.ownRequest = s.output.ownRequest) : t.formEffective = s.formEffective := by
  have counted (r : Role) : t.roleCounted r = s.roleCounted r := by
    simp only [State.roleCounted, State.listener, cfg, State.peers_eq_rows size, State.peers_eq_rows size', List.any_map]
    congr 2
    funext y
    obtain ⟨-, self, link, role⟩ := rows y
    simp [self, link, role]
  simp only [State.formEffective, State.roleMissing, counted, cfg, request, State.peers_eq_rows size,
    State.peers_eq_rows size', List.foldl_map, fun y => (rows y).1]

/-- A change of the records that the vote does not see leaves nothing for it to do. -/
theorem State.Settled.of_rows {s : State} (settled : s.Settled) {fifo : List FifoEntry} {peers : List PeerRecord}
    (size : s.peers.length = 15) (size' : peers.length = 15)
    (rows : ∀ y, (State.peerAt { s with fifo, peers } y).VotesAs (s.peerAt y)) : State.Settled { s with fifo, peers } := by
  obtain ⟨⟨request, effective⟩, stage⟩ := settled
  exact ⟨⟨request, effective.trans (State.formEffective_of_rows size size' rows rfl rfl).symm⟩, stage⟩

/-! ### The bursts of other senders and kinds (R95) -/

/-- A burst from source 0 is dropped with BAD_BURST, reason FORMAT. -/
theorem State.applyEntry_unnamed (s : State) {f : FifoEntry} (rest : List FifoEntry) (unnamed : f.burst.source = 0) :
    let u := State.applyEntry { s with fifo := rest } f
    u.peers = s.peers ∧ u.sources = s.sources ∧ u.players = s.players ∧
    (u.node = s.node ∧ u.port = s.port ∧ s.RequestTold u) ∧ u.sender = { s.sender with pending := u.sender.pending } ∧
    u.counters = { s.counters with badBursts := min 65535 (s.counters.badBursts + 1) } ∧
    s.Raised u [{ kind := .badBurst, count := s.merge.periodCount, station := some 0, detail := some 4 }] := by
  have applied : State.applyEntry { s with fifo := rest } f =
      (State.reportBad { s with fifo := rest } .format (some 0) none).revote := by
    simp [State.applyEntry, unnamed]
  obtain ⟨raised, -, told, sender⟩ := State.revote_ends (s := s)
    (a := State.reportBad { s with fifo := rest } .format (some 0) none)
    (records := [{ kind := .badBurst, count := s.merge.periodCount, station := some 0, detail := some 4 }]) rfl
  simp only [applied]
  exact ⟨by simp, by simp, by simp, ⟨by simp, by simp, told⟩, sender, by simp [State.reportBad, satAdd, Config.counterMax], raised⟩

/-- A burst that this node takes no notice of ends with the vote alone. -/
theorem State.ignored_ends (s : State) (rest : List FifoEntry) :
    let u := State.revote { s with fifo := rest }
    u.peers = s.peers ∧ u.sources = s.sources ∧ u.players = s.players ∧ u.counters = s.counters ∧ s.Raised u [] ∧
    (u.node = s.node ∧ u.port = s.port ∧ s.RequestTold u) ∧ u.sender = { s.sender with pending := u.sender.pending } ∧
    (s.Settled → u = { s with fifo := rest }) := by
  obtain ⟨raised, -, told, sender⟩ := State.revote_ends (s := s) (a := { s with fifo := rest }) (records := []) rfl
  exact ⟨by simp, by simp, by simp, by simp, raised, ⟨by simp, by simp, told⟩, sender,
    fun settled => State.revote_settled (s := { s with fifo := rest }) settled⟩

/-! ### A duplicate station (R95, R114) -/

/-- FAULT entry as it comes to its vote (R114, R128, R131). -/
def State.faultMade (s : State) : State :=
  let off := (s.enterNode .fault).cutDrive
  { off with
    node := { off.node with window := none, leaveDue := false }
    tx := { off.tx with engine := .stopped }
    line := { off.line with wait := .none }
    sender := off.sender.silenced
    announce := { off.announce with holdOff := none, remembered := false, waiting := false }
    port := off.port.endSession }

theorem State.enterFault_eq {s : State} (joined : s.node.state.joined = true) : s.enterFault = s.faultMade.revote := by
  simp only [State.enterFault, if_pos joined, State.faultMade]

/-- The line as FAULT entry leaves it: a drive is cut, and the gap starts where the line has fallen quiet (R128, R138). -/
theorem State.faultMade_line (s : State) : s.faultMade.line = { s.line with
    drive := .idle, wait := .none
    quiet := if s.line.drive ≠ .idle ∧ s.line.run = none ∧ s.line.receiveOpen = true then .counting s.now
      else s.line.quiet } := by
  simp only [State.faultMade, State.cutDrive, State.enterNode_frame]
  cases drive : s.line.drive <;> simp [Line.released, drive]

/-- FAULT entry with its record, the queue, the line and the announce record it leaves. -/
theorem State.enterFault_ends {s : State} (joined : s.node.state.joined = true) :
    s.enterFault.tx = { s.tx with engine := .stopped } ∧
    s.enterFault.announce = { s.announce with holdOff := none, remembered := false, waiting := false } ∧
    s.enterFault.line = s.faultMade.line ∧ s.enterFault.revote = s.enterFault ∧
    s.Raised s.enterFault [
      { kind := .nodeState, count := s.merge.periodCount, detail := some 4, value := some (s.node.state.code : Int) }] := by
  obtain ⟨tx, line, announce, -⟩ := State.revote_silent (s := s.faultMade) rfl
  have settles := s.faultMade.revote_settles
  rw [State.enterFault_eq joined]
  refine ⟨by rw [tx]; simp [State.faultMade], by rw [announce]; simp [State.faultMade], line, State.revote_settled settles,
    s.faultMade.revote_raised.after_records ?_ ?_ ?_ ?_⟩
  · simp [State.faultMade, State.enterNode]; rfl
  · simp [State.faultMade]
  · simp [State.faultMade]
  · simp [State.faultMade]

theorem State.applyEntry_ofDuplicate {s : State} {f : FifoEntry} (named : f.burst.source ≠ 0) (heard : f.own = false)
    (duplicate : f.burst.source = s.cfg.station) : s.applyEntry f = (s.applyDuplicate f.burst).revote := by
  rw [duplicate] at named
  simp [State.applyEntry, named, heard, duplicate]

/-- A burst under this node's own number that a node in FAULT has heard changes nothing. -/
theorem State.applyDuplicate_inFault {s : State} (b : Burst) (fault : s.node.state = .fault) : s.applyDuplicate b = s :=
  if_pos fault

theorem State.applyEntry_duplicate {s : State} {f : FifoEntry} (rest : List FifoEntry) (named : f.burst.source ≠ 0)
    (heard : f.own = false) (duplicate : f.burst.source = s.cfg.station)
    (joined : s.node.state = .joining ∨ s.node.state = .active ∨ s.node.state = .leaving) :
    let u := State.applyEntry { s with fifo := rest } f
    s.FaultEntered u ∧ u.tx = { s.tx with engine := .stopped } ∧
    u.announce = { s.announce with holdOff := none, remembered := false, waiting := false } ∧
    u.line = { s.line with
      drive := .idle, wait := .none
      quiet := if s.line.drive ≠ .idle ∧ s.line.run = none ∧ s.line.receiveOpen = true then .counting s.now
        else s.line.quiet } ∧
    s.Raised u [
      { kind := .duplicateStation, count := s.merge.periodCount, station := some s.cfg.station
        detail := some f.burst.payload.kind, value := some (f.burst.seq : Int) },
      { kind := .nodeState, count := s.merge.periodCount, detail := some 4, value := some (s.node.state.code : Int) }] := by
  let r : State := State.report { s with fifo := rest } .duplicateStation (station := some s.cfg.station)
    (detail := some f.burst.payload.kind) (value := some f.burst.seq)
  have joined_r : r.node.state.joined = true := by
    rcases joined with h | h | h <;> simp [r, h, NodeState.joined]
  have outside : s.node.state ≠ .fault := by rcases joined with h | h | h <;> simp [h]
  obtain ⟨tx, announce, line, again, raised⟩ := State.enterFault_ends joined_r
  have entered := State.enterFault_entered joined_r
  have enters : State.applyDuplicate { s with fifo := rest } f.burst = r.enterFault := if_neg outside
  have applied : State.applyEntry { s with fifo := rest } f = r.enterFault := by
    rw [State.applyEntry_ofDuplicate (s := { s with fifo := rest }) named heard duplicate, enters, again]
  rw [State.faultMade_line] at line
  simp only [applied]
  exact ⟨entered, tx, announce, line, raised⟩

/-! ### This node's own bursts (R9, R95, R134) -/

/-- A page or the BYE of this node itself changes nothing. -/
theorem State.applyEntry_ownPage {s : State} {f : FifoEntry} (rest : List FifoEntry) (self : f.burst.source = s.cfg.station)
    (named : s.cfg.station ≠ 0) (own : f.own = true) (page : f.burst.payload.kind = 1 ∨ f.burst.payload = .bye) :
    State.applyEntry { s with fifo := rest } f = State.revote { s with fifo := rest } := by
  have nothing : State.applyOwn { s with fifo := rest } f = { s with fifo := rest } := by
    cases payload : f.burst.payload <;> simp [payload, Payload.kind] at page <;> simp [State.applyOwn, payload]
  simp [State.applyEntry, self, named, own, nothing]

/-- The last-sent value of a carried channel is the carried one (R134). -/
theorem sentPairs_carried {pairs : List (Nat × Int)} (ascending : pairs.Pairwise fun a b => a.1 < b.1) {p : Nat × Int}
    (carried : p ∈ pairs) {lastSent : List (Option Int)} (channel : p.1 < lastSent.length) :
    (sentPairs pairs lastSent).getD p.1 none = some (takeCue p.2) := by
  induction pairs generalizing lastSent with
  | nil => cases carried
  | cons q pairs ih =>
    obtain ⟨first, ascending⟩ := List.pairwise_cons.1 ascending
    rcases List.mem_cons.1 carried with rfl | later
    · have others : ∀ q ∈ pairs, q.1 ≠ p.1 := fun q hq => Nat.ne_of_gt (first q hq)
      exact (sentPairs_other pairs p.1 others _).trans (getD_set_self _ _ _ _ channel)
    · exact ih ascending later (by simpa using channel)

theorem State.applyEntry_ownLevel {s : State} {f : FifoEntry} {pairs : List (Nat × Int)} (rest : List FifoEntry)
    (self : f.burst.source = s.cfg.station) (named : s.cfg.station ≠ 0) (own : f.own = true)
    (level : f.burst.payload = .level pairs) :
    let u := State.applyEntry { s with fifo := rest } f
    u.peers = s.peers ∧ u.players = s.players ∧ u.counters = s.counters ∧
    (u.node = s.node ∧ u.port = s.port ∧ s.RequestTold u) ∧ s.Raised u [] ∧
    u.sender = { s.sender with
      lastSent := sentPairs pairs s.sender.lastSent, lastRequest := some f.burst.request, pending := u.sender.pending } ∧
    u.sources = pairs.foldl (fun t p =>
      if (s.channel p.1).produce then setValid s.cfg.station p.1 p.2 s.merge.periodCount t else t) s.sources := by
  generalize ha : State.applyOwnLevel { s with fifo := rest } f.burst.request pairs = a
  have applied : State.applyEntry { s with fifo := rest } f = a.revote := by
    simp [State.applyEntry, self, named, own, State.applyOwn, level, ha]
  have sender : a.sender =
      { s.sender with lastSent := sentPairs pairs s.sender.lastSent, lastRequest := some f.burst.request } := by
    rw [← ha]; rfl
  have kept := a.revote_sender
  have told := a.revote_told.congr (s := s) (u := a.revote) (by simp [← ha]) (by simp [← ha]) (by simp [← ha]) (by simp [← ha])
    (by simp [← ha]) (by rw [sender]) (by rw [sender]) (by rw [sender])
  rw [sender] at kept
  simp only [applied]
  refine ⟨by simp [← ha], by simp [← ha], by simp [← ha], ⟨by simp [← ha], by simp [← ha], told⟩, ?_, kept, by simp [← ha]; rfl⟩
  exact a.revote_raised.after_records (by simp [← ha]) (by simp [← ha]) (by simp [← ha]) (by simp [← ha])

/-! ### The BYE of a peer (R7, R41, R110) -/

/-- The header steps of a BYE: its request and its gaps, and the timers and the sequence of a peer that is heard (R96). -/
theorem State.bye_headerSteps {s : State} {b : Burst} (bye : b.payload = .bye) (size : s.peers.length = 15)
    (first : 1 ≤ b.source) (last : b.source ≤ 15) :
    (s.headerSteps b).peerAt b.source = PeerRecord.header b s.now { s.peerAt b.source with lastRequest := some b.request } ∧
    (∀ y, y ≠ b.source → (s.headerSteps b).peerAt y = s.peerAt y) ∧ (s.headerSteps b).peers.length = 15 ∧
    s.headerSteps b = { s with peers := (s.headerSteps b).peers } := by
  obtain ⟨headed, others, size_h, events⟩ := s.headerSteps_peers b size first last
  rw [if_neg (by simp [bye, Payload.returns])] at events
  refine ⟨by rw [headed, PeerRecord.returned, if_neg (by simp [bye, Payload.returns])], others, size_h, ?_⟩
  apply State.eq_of_fields <;> simp [events]

theorem State.applyEntry_bye {s : State} {f : FifoEntry} (first : 1 ≤ f.burst.source)
    (other : f.burst.source ≠ s.cfg.station) (heard : f.own = false) (bye : f.burst.payload = .bye) :
    s.applyEntry f = ((s.headerSteps f.burst).applyBye f.burst.source).revote := by
  simp [State.applyEntry, Nat.ne_of_gt first, heard, other, State.applyContents, bye]

/-- The BYE of an ABSENT peer records its request, and the vote does not see it. -/
theorem State.applyEntry_absentBye {s : State} {f : FifoEntry} (rest : List FifoEntry) (size : s.peers.length = 15)
    (first : 1 ≤ f.burst.source) (last : f.burst.source ≤ 15) (other : f.burst.source ≠ s.cfg.station)
    (heard : f.own = false) (bye : f.burst.payload = .bye) (absent : (s.peerAt f.burst.source).link = .absent) :
    let u := State.applyEntry { s with fifo := rest } f
    u.peerAt f.burst.source = { s.peerAt f.burst.source with lastRequest := some f.burst.request } ∧
    (∀ y, y ≠ f.burst.source → u.peerAt y = s.peerAt y) ∧ u.sources = s.sources ∧ u.players = s.players ∧
    u.counters = s.counters ∧ s.Raised u [] ∧ (u.node = s.node ∧ u.port = s.port ∧ s.RequestTold u) ∧
    u.sender = { s.sender with pending := u.sender.pending } ∧
    (s.Settled → u = { s with fifo := rest, peers := u.peers }) := by
  obtain ⟨headed, others, size_h, frame⟩ := State.bye_headerSteps (s := { s with fifo := rest }) bye size first last
  have row := PeerRecord.absent_headed f.burst absent s.now
  rw [PeerRecord.returned, if_neg (by simp [bye, Payload.returns])] at row
  replace headed := headed.trans row
  have applied := State.applyEntry_bye (s := { s with fifo := rest }) first other heard bye
  generalize State.headerSteps { s with fifo := rest } f.burst = h at *
  have nothing : h.applyBye f.burst.source = h := if_pos (by rw [headed]; exact absent)
  rw [nothing] at applied
  obtain ⟨raised, -, told, sender⟩ := State.revote_ends (s := s) (a := h) (records := []) (by rw [frame]; rfl) (by rw [frame])
    (by rw [frame]) (by rw [frame]) (by rw [frame]) (by rw [frame]) (by rw [frame]) (by rw [frame])
  have peers (y : Nat) : h.revote.peerAt y = h.peerAt y := State.peerAt_congr (by simp) y
  have tables : h.sources = s.sources ∧ h.players = s.players ∧ h.counters = s.counters ∧ h.node = s.node ∧ h.port = s.port := by
    rw [frame]; simp
  obtain ⟨sources, players, counters, node, port⟩ := tables
  simp only [applied]
  refine ⟨(peers _).trans headed, fun y other => (peers y).trans (others y other), by simp [sources], by simp [players],
    by simp [counters], raised, ⟨by simp [node], by simp [port], told⟩, sender, fun settled => ?_⟩
  have rows (y : Nat) : (h.peerAt y).VotesAs (s.peerAt y) := by
    by_cases own_row : y = f.burst.source
    · rw [own_row, headed]; exact PeerRecord.absent_votesAs absent _
    · rw [others y own_row]; exact ⟨rfl, rfl, rfl, rfl⟩
  rw [frame] at rows
  have settled_h : h.Settled := by
    rw [frame]; exact settled.of_rows size size_h rows
  rw [State.revote_settled settled_h]
  exact frame

/-- The record of a peer that has left (R110). -/
def PeerRecord.departed (p : PeerRecord) : PeerRecord := { p with
  link := .absent, role := none, declared := [], silence := none, forget := none, expected := none, assembly := none }

/-- A peer that has left, before the vote (R110). -/
def State.departureMade (s : State) (x : Nat) : State :=
  ((s.mapPeer x PeerRecord.departed).discardDeclared x).report .peerLeft (station := some x)

theorem State.applyBye_present {s : State} {x : Nat} (present : (s.peerAt x).link ≠ .absent) :
    s.applyBye x = s.departureMade x := if_neg present

/-- What a departure makes of the tables. -/
theorem State.departureMade_tables (s : State) (x : Nat) :
    (s.departureMade x).peers = (s.mapPeer x PeerRecord.departed).peers ∧
    (s.departureMade x).sources = redeclare x [] s.sources ∧
    (s.departureMade x).players = s.players.map (Option.map (Player.orphaned s.store x)) ∧
    (s.departureMade x).events =
      s.events.offer { kind := .peerLeft, count := s.merge.periodCount, station := some x } ∧
    s.departureMade x = { s with
      peers := (s.departureMade x).peers, sources := (s.departureMade x).sources, players := (s.departureMade x).players
      events := (s.departureMade x).events } := by
  refine ⟨by simp [State.departureMade], by simp [State.departureMade, State.discardDeclared],
    by simp [State.departureMade, State.discardDeclared], by simp [State.departureMade], ?_⟩
  apply State.eq_of_fields <;> simp [State.departureMade]

/-- The header steps of a burst that is no LEVEL keep the link. -/
theorem PeerRecord.header_link {b : Burst} (level : b.payload.isLevel = false) (now : Nat) (p : PeerRecord) :
    (p.header b now).link = p.link := by
  cases heard : p.link.heard <;> simp [PeerRecord.header, level, heard]

/-- Of the header steps of a BYE the request and the gaps remain. -/
theorem PeerRecord.header_departed (b : Burst) (now : Nat) {p : PeerRecord} (present : p.link ≠ .absent) :
    (p.header b now).departed = { p with
      link := .absent, role := none, declared := [], silence := none, forget := none, expected := none, assembly := none
      gaps := match p.expected with
        | some e => min 65535 (p.gaps + (b.seq + 256 - e) % 256)
        | none => p.gaps } := by
  simp only [PeerRecord.header, PeerRecord.departed, if_neg present, satAdd, seqGap, Config.counterMax]
  cases heard : p.link.heard <;> rfl

theorem State.applyEntry_presentBye {s : State} {f : FifoEntry} (rest : List FifoEntry) (size : s.peers.length = 15)
    (first : 1 ≤ f.burst.source) (last : f.burst.source ≤ 15) (other : f.burst.source ≠ s.cfg.station)
    (heard : f.own = false) (bye : f.burst.payload = .bye) (present : (s.peerAt f.burst.source).link ≠ .absent) :
    let u := State.applyEntry { s with fifo := rest } f
    let x := f.burst.source
    let p := s.peerAt x
    u.peerAt x = { p with
      link := .absent, role := none, declared := [], lastRequest := some f.burst.request, silence := none
      forget := none, expected := none, assembly := none
      gaps := match p.expected with
        | some e => min 65535 (p.gaps + (f.burst.seq + 256 - e) % 256)
        | none => p.gaps } ∧
    u.sources = redeclare x [] s.sources ∧ u.players = s.players.map (Option.map (Player.orphaned s.store x)) ∧
    (∀ y, y ≠ x → u.peerAt y = s.peerAt y) ∧ u.counters = s.counters ∧
    (u.node = s.node ∧ u.port = s.port ∧ s.RequestTold u) ∧ u.sender = { s.sender with pending := u.sender.pending } ∧
    s.Raised u [{ kind := .peerLeft, count := s.merge.periodCount, station := some x }] := by
  obtain ⟨headed, others, size_h, frame⟩ := State.bye_headerSteps (s := { s with fifo := rest }) bye size first last
  have applied := State.applyEntry_bye (s := { s with fifo := rest }) first other heard bye
  generalize State.headerSteps { s with fifo := rest } f.burst = h at *
  have link : (h.peerAt f.burst.source).link = (s.peerAt f.burst.source).link := by
    rw [headed]; exact PeerRecord.header_link (by rw [bye]; rfl) _ _
  rw [State.applyBye_present (by rw [link]; exact present)] at applied
  obtain ⟨peers, sources, players, events, made⟩ := h.departureMade_tables f.burst.source
  obtain ⟨own_row, other_rows⟩ := State.peers_of_mapPeer peers size_h first last
  generalize h.departureMade f.burst.source = d at *
  have tables : h.sources = s.sources ∧ h.players = s.players ∧ h.store = s.store ∧ h.events = s.events ∧
      h.merge = s.merge := by rw [frame]; simp
  obtain ⟨sources_h, players_h, store_h, events_h, merge_h⟩ := tables
  rw [frame] at made
  obtain ⟨raised, -, told, sender⟩ := State.revote_ends (s := s) (a := d)
    (records := [{ kind := .peerLeft, count := s.merge.periodCount, station := some f.burst.source }])
    (by rw [events, events_h, merge_h]; rfl) (by rw [made]) (by rw [made]) (by rw [made]) (by rw [made]) (by rw [made])
    (by rw [made]) (by rw [made])
  have rows (y : Nat) : d.revote.peerAt y = d.peerAt y := State.peerAt_congr (by simp) y
  have kept : d.counters = s.counters ∧ d.node = s.node ∧ d.port = s.port := by rw [made]; simp
  obtain ⟨counters, node, port⟩ := kept
  simp only [applied]
  refine ⟨?_, by simp [sources, sources_h], by simp [players, players_h, store_h],
    fun y other => (rows y).trans ((other_rows y other).trans (others y other)), by simp [counters],
    ⟨by simp [node], by simp [port], told⟩, sender, raised⟩
  rw [rows, own_row, headed]
  exact PeerRecord.header_departed f.burst s.now (p := { s.peerAt f.burst.source with lastRequest := some f.burst.request }) present

/-- Settles O58: each burst's own change and then one vote; in a pass it is held and made by the same rule. -/
theorem otherBurstsAreApplied : Obligations.OtherBurstsAreApplied := by
  intro s high
  refine ⟨fun pass => ⟨?_, State.madeAsThePassEnds pass high fun v between high _ => ⟨fun _ => ?_, False.elim⟩⟩,
    fun between empty => ?_, fun f rest between fifo => ?_⟩
  · simp only [exec, execApplyBurst, State.unlessReset_high high, State.orHold_of_pass pass]
  · simp only [exec, execApplyBurst, State.unlessReset_high high, State.orHold_of_none between, State.makeHeld]
  · simp only [exec, execApplyBurst, State.unlessReset_high high, State.orHold_of_none between, State.applyOldest, empty]
  · refine ⟨State.applyEntry { s with fifo := rest } f, exec_applyBurst high between fifo, by simp, State.revote_voted _,
      s.applyEntry_unnamed rest, fun named heard duplicate => ?_, fun pairs self named own level => ?_,
      fun self named own page => ?_, fun size first last other heard bye absent => ?_,
      fun size first last other heard bye present => ?_, ?_⟩
    · have applied := State.applyEntry_ofDuplicate (s := { s with fifo := rest }) named heard duplicate
      refine ⟨by simp [applied], by simp [applied], by simp [applied], by simp [applied], fun fault => ?_,
        State.applyEntry_duplicate rest named heard duplicate⟩
      rw [applied, State.applyDuplicate_inFault (s := { s with fifo := rest }) _ fault]
      obtain ⟨-, -, -, -, raised, stays, sender, settled⟩ := s.ignored_ends rest
      exact ⟨raised, stays, sender, settled⟩
    · obtain ⟨peers, players, counters, stays, raised, sender, sources⟩ :=
        State.applyEntry_ownLevel rest self named own level
      have sent := congrArg LevelSender.lastSent sender
      dsimp only at sent
      refine ⟨peers, players, counters, stays, raised, by rw [sent]; exact sender, fun ascending => ?_, fun c absent => ?_,
        fun size ascending p carried low => ?_⟩
      · exact sources.trans (setValid_fold s.cfg.station (fun c => (s.channel c).produce) _ ascending s.sources)
      · rw [sent]; exact sentPairs_other pairs c absent _
      · rw [sent]; exact sentPairs_carried ascending carried (by omega)
    · rw [State.applyEntry_ownPage rest self named own page]
      exact s.ignored_ends rest
    · exact State.applyEntry_absentBye rest size first last other heard bye absent
    · obtain ⟨own_row, sources, players, ends⟩ := State.applyEntry_presentBye rest size first last other heard bye present
      exact ⟨own_row, sources.trans (redeclare_nil_eq _ _), players.trans (orphanedPlayers_eq _ _ _), ends⟩
    · apply State.eq_of_fields <;> simp

end Sys2Proof.Machine
end

section
/-! Proofs of the statements of 02_transient_players_and_the_profile_store.md. -/

namespace Sys2Proof.Machine

/-! ### A player at a pass (R34 to R37) -/

theorem Player.started_due {p : Player} {expiry : Nat} (armed : p.state = .armed) (due : p.start ≤ expiry) :
    p.started expiry = { p with state := .playing } := if_pos ⟨armed, due⟩

theorem Player.started_other {p : Player} {expiry : Nat} (h : p.state ≠ .armed ∨ expiry < p.start) : p.started expiry = p :=
  if_neg fun ⟨armed, due⟩ => h.elim (fun other => other armed) (Nat.not_lt.2 due)

theorem contributions_cons (st : Store) (q : Option Player) (players : List (Option Player)) (c : Nat) :
    contributions st (q :: players) c =
      ((q.filter fun p => p.channel = c).map (Player.contribution st)).getD 0 + contributions st players c := by
  cases q with
  | none => simp [contributions]
  | some p => by_cases on : p.channel = c <;> simp [contributions, Option.filter_some, on]

/-- The contributions of a channel are those of the players on it, summed exactly (R18, R35). -/
theorem contributions_eq_sum (st : Store) (players : List (Option Player)) (c : Nat) : contributions st players c =
    ((players.filterMap fun q => q.filter fun p => p.channel = c).map (Player.contribution st)).sum := by
  induction players with
  | nil => rfl
  | cons q players ih =>
    rw [contributions_cons, ih]
    cases on : q.filter fun p => p.channel = c <;> simp [on]

theorem Player.armed_rests {p : Player} (armed : p.state = .armed) (st : Store) :
    p.contribution st = 0 ∧ p.after st = some p := by
  simp only [Player.contribution, Player.after, armed, and_self]

/-- A PLAYING player contributes at the full level, a FADING one at its own (R35). -/
theorem Player.level_eq {p : Player} (sounds : p.state ≠ .armed) :
    p.level = if p.state = .playing then 8 else p.fadeLevel := by
  cases state : p.state with
  | armed => exact absurd state sounds
  | playing => simp only [Player.level, state]; rfl
  | fading => simp only [Player.level, state]; rfl

theorem Player.contribution_eq {st : Store} {p : Player} {pr : Profile} (defined : st.profile p.profile = some pr)
    (sounds : p.state ≠ .armed) :
    p.contribution st = roundDiv (st.samples.getD (pr.start + p.index) 0 * p.amplitude * p.level) 1024 := by
  cases state : p.state with
  | armed => exact absurd state sounds
  | playing => simp only [Player.contribution, state, defined]
  | fading => simp only [Player.contribution, state, defined]

/-- A sample is held until it has been given for stretch passes (R36). -/
theorem Player.stepped_holds {pr : Profile} {p : Player} (within : p.index < pr.length)
    (held : p.stretchCount + 1 ≠ pr.stretch) : p.stepped pr = some { p with stretchCount := p.stretchCount + 1 } := by
  simp only [Player.stepped, if_neg held]
  exact if_neg (Nat.ne_of_lt within)

theorem Player.stepped_moves {pr : Profile} {p : Player} (given : p.stretchCount + 1 = pr.stretch)
    (more : p.index + 1 ≠ pr.length) : p.stepped pr = some { p with index := p.index + 1, stretchCount := 0 } := by
  simp only [Player.stepped, if_pos given]
  exact if_neg more

/-- The end of the profile frees a ONCE player and wraps a LOOP player (R36). -/
theorem Player.stepped_ends {pr : Profile} {p : Player} (given : p.stretchCount + 1 = pr.stretch)
    (last : p.index + 1 = pr.length) :
    p.stepped pr = if pr.endMode = .once then none else some { p with index := 0, stretchCount := 0 } := by
  simp only [Player.stepped, if_pos given, if_pos last]
  cases pr.endMode <;> rfl

/-- The step through the profile keeps the state and the fade level. -/
theorem Player.stepped_keeps {pr : Profile} {p q : Player} (h : p.stepped pr = some q) :
    q.state = p.state ∧ q.fadeLevel = p.fadeLevel := by
  simp only [Player.stepped] at h
  (repeat' split at h) <;> cases h <;> exact ⟨rfl, rfl⟩

theorem Player.after_eq {st : Store} {p : Player} {pr : Profile} (defined : st.profile p.profile = some pr)
    (sounds : p.state ≠ .armed) : p.after st = (p.stepped pr).bind Player.faded := by
  cases state : p.state with
  | armed => exact absurd state sounds
  | playing => simp only [Player.after, state, defined]
  | fading => simp only [Player.after, state, defined]

theorem Player.faded_playing {p : Player} (playing : p.state = .playing) : p.faded = some p := by
  simp only [Player.faded, playing]

theorem Player.faded_fading {p : Player} (fading : p.state = .fading) :
    p.faded = if p.fadeLevel ≤ 1 then none else some { p with fadeLevel := p.fadeLevel - 1 } := by
  simp only [Player.faded, fading]

theorem Player.after_playing {st : Store} {p : Player} {pr : Profile} (defined : st.profile p.profile = some pr)
    (playing : p.state = .playing) : p.after st = p.stepped pr := by
  rw [Player.after_eq defined (by simp [playing])]
  cases moved : p.stepped pr with
  | none => rfl
  | some q => exact Player.faded_playing ((Player.stepped_keeps moved).1.trans playing)

/-- A FADING player loses one level after its step, and is FREE at level 0 (R37). -/
theorem Player.after_fading {st : Store} {p : Player} {pr : Profile} (defined : st.profile p.profile = some pr)
    (fading : p.state = .fading) : p.after st =
      if p.fadeLevel ≤ 1 then none else (p.stepped pr).map fun q => { q with fadeLevel := p.fadeLevel - 1 } := by
  rw [Player.after_eq defined (by simp [fading])]
  cases moved : p.stepped pr with
  | none => simp
  | some q =>
    obtain ⟨state, level⟩ := Player.stepped_keeps moved
    rw [Option.bind_some, Player.faded_fading (state.trans fading), level, Option.map_some]

/-- Settles O25: the step through the profile by cases, and then the fade. -/
theorem playerSteps : Obligations.PlayerSteps := by
  refine ⟨fun p expiry => ⟨Player.started_due, Player.started_other⟩, contributions_eq_sum,
    fun st p armed => Player.armed_rests armed st, fun st p pr defined sounds => ?_,
    fun st p pr defined sounds within => ⟨p.stepped pr, Player.stepped_holds within, Player.stepped_moves,
      fun given last once => ?_, fun given last loop => ?_, Player.after_playing defined, fun fading low => ?_,
      fun fading high => ?_⟩⟩
  · rw [Player.contribution_eq defined sounds, Player.level_eq sounds]
  · rw [Player.stepped_ends given last, if_pos once]
  · rw [Player.stepped_ends given last, if_neg (by simp [loop])]
  · rw [Player.after_fading defined fading, if_pos low]
  · rw [Player.after_fading defined fading, if_neg (Nat.not_le.2 high)]

end Sys2Proof.Machine
end

section
namespace Sys2Proof.Machine

/-! ### Allocation (R31) -/

/-- The lowest-numbered FREE player is the one allocation finds. -/
theorem firstFree_of_lowest {players : List (Option Player)} {n : Nat} (free : players[n]? = some none)
    (lowest : ∀ m, m < n → players[m]? ≠ some none) : firstFree 0 players = some n := by
  obtain ⟨finds, none_free⟩ := firstFree_spec players 0
  cases found : firstFree 0 players with
  | none => exact absurd (List.mem_of_getElem? free) (none_free.1 found)
  | some k =>
    obtain ⟨-, free_k, lowest_k⟩ := finds k found
    rcases Nat.lt_trichotomy k n with below | rfl | above
    · exact absurd free_k (lowest k below)
    · rfl
    · exact absurd free (lowest_k n above)

theorem victim_mem {priority n m : Nat} {q : Player} {players : List (Option Player)}
    (h : victim priority n players = some (m, q)) : some q ∈ players ∧ q.priority < priority := by
  induction players generalizing n with
  | nil => cases h
  | cons a rest ih =>
    have later (found : victim priority (n + 1) rest = some (m, q)) : some q ∈ a :: rest ∧ q.priority < priority :=
      (ih found).imp_left (List.mem_cons_of_mem _)
    cases a with
    | none => exact later h
    | some p =>
      simp only [victim] at h
      split at h
      · split at h
        · cases h; exact ⟨by simp, ‹_›⟩
        · cases h
      · split at h
        next steals => cases h; exact ⟨by simp, steals.1⟩
        next found _ => cases h; exact later found

theorem victim_none {priority : Nat} {players : List (Option Player)}
    (h : ∀ p, some p ∈ players → priority ≤ p.priority) (n : Nat) : victim priority n players = none := by
  cases found : victim priority n players with
  | none => rfl
  | some mq =>
    obtain ⟨held, lower⟩ := victim_mem found
    exact absurd lower (Nat.not_lt.2 (h _ held))

/-- The victim of a steal stands before every other player by its priority, then its start instant, then its number (R31). -/
theorem victim_of_least {priority n k : Nat} {v : Player} {players : List (Option Player)}
    (held : players[k]? = some (some v)) (lower : v.priority < priority)
    (least : ∀ m q, players[m]? = some (some q) →
      v.priority < q.priority ∨ (v.priority = q.priority ∧ (v.start < q.start ∨ (v.start = q.start ∧ k ≤ m)))) :
    victim priority n players = some (n + k, v) := by
  induction players generalizing n k with
  | nil => simp at held
  | cons a rest ih =>
    cases k with
    | zero =>
      obtain rfl : a = some v := by simpa using held
      simp only [victim]
      split
      · rw [if_pos lower]; rfl
      · next m q found =>
        obtain ⟨j, at_j⟩ := List.mem_iff_getElem?.1 (victim_mem found).1
        have before := least (j + 1) q at_j
        rw [if_pos ⟨lower, by simp [Player.weaker]; omega⟩]; rfl
    | succ k =>
      have found : victim priority (n + 1) rest = some (n + (k + 1), v) := by
        rw [ih held fun m q at_m => ?_]
        · congr 2; omega
        · have before := least (m + 1) q at_m; omega
      cases a with
      | none => exact found
      | some p =>
        have before := least 0 p rfl
        simp only [victim, found]
        exact if_neg fun ⟨_, stays⟩ => by simp [Player.weaker] at stays; omega

/-! ### A START item (R30, R32, R44) -/

section
variable {s : State} {source endInstant channel event profile amplitude priority lead : Nat}

theorem applyStart_parked (parked : s.output.stage = .parked) :
    applyStart source endInstant channel event profile amplitude priority lead s =
      s.reportDropped .parked source (some channel) event := if_pos parked

theorem applyStart_undefined (runs : s.output.stage ≠ .parked) (undefined : s.store.profile profile = none) :
    applyStart source endInstant channel event profile amplitude priority lead s =
      s.reportDropped .noProfile source (some channel) event := by
  simp only [applyStart, if_neg runs, if_pos undefined]

theorem players_matches_iff (players : List (Option Player)) (source event : Nat) :
    players.any (fun q => q.any (·.matches source event)) = true ↔
      ∃ p, some p ∈ players ∧ p.source = source ∧ p.event = event := by
  simp [List.any_eq_true, Option.any_eq_true, Player.matches]

theorem applyStart_duplicate (runs : s.output.stage ≠ .parked) (defined : s.store.profile profile ≠ none)
    (duplicate : ∃ p, some p ∈ s.players ∧ p.source = source ∧ p.event = event) :
    applyStart source endInstant channel event profile amplitude priority lead s =
      s.reportDropped .duplicate source (some channel) event := by
  simp only [applyStart, if_neg runs, if_neg defined, if_pos ((players_matches_iff ..).2 duplicate)]

/-- A START item that no check of R30 drops takes a FREE player, or the victim of a steal, or is dropped for want of one. -/
theorem applyStart_accepted (runs : s.output.stage ≠ .parked) (defined : s.store.profile profile ≠ none)
    (fresh : ∀ p, some p ∈ s.players → ¬(p.source = source ∧ p.event = event)) :
    let new := some (armed source endInstant channel event profile amplitude priority lead)
    let u := applyStart source endInstant channel event profile amplitude priority lead s
    (∀ n, firstFree 0 s.players = some n → u = s.setPlayer n new) ∧
    (firstFree 0 s.players = none →
      (∀ n v, victim priority 0 s.players = some (n, v) →
        u = (s.reportDropped .stolen v.source (some v.channel) v.event).setPlayer n new) ∧
      (victim priority 0 s.players = none → u = s.reportDropped .noPlayer source (some channel) event)) := by
  have unmatched : ¬s.players.any (fun q => q.any (·.matches source event)) = true :=
    fun h => have ⟨p, held, same⟩ := (players_matches_iff ..).1 h; fresh p held same
  simp only [applyStart, if_neg runs, if_neg defined, if_neg unmatched]
  refine ⟨fun n free => by rw [free], fun none_free => ⟨fun n v steals => ?_, fun none_lower => ?_⟩⟩
  · rw [none_free, steals]
  · rw [none_free, none_lower]

end

/-- Settles O26: the checks of R30 in their order, and then the allocation. -/
theorem startItemArms : Obligations.StartItemArms := by
  intro s source endInstant channel event profile amplitude priority lead u drop new accepted
  have arms : some (armed source endInstant channel event profile amplitude priority lead) = some new := by
    simp [armed, new, Config.bitsPerLead, Config.fullLevel, Nat.mul_comm]
  have allocation := fun (⟨runs, defined, fresh⟩ : accepted) =>
    applyStart_accepted (endInstant := endInstant) (channel := channel) (amplitude := amplitude) (priority := priority)
      (lead := lead) runs defined fresh
  simp only [arms] at allocation
  refine ⟨applyStart_parked, applyStart_undefined, applyStart_duplicate, fun holds n free lowest => ?_,
    fun holds full none_lower => ?_, fun holds full n v held lower least => ?_⟩
  · obtain ⟨takes, -⟩ := allocation holds
    exact takes n (firstFree_of_lowest free lowest)
  · obtain ⟨-, others⟩ := allocation holds
    obtain ⟨-, dropped⟩ := others ((firstFree_spec s.players 0).2.2 full)
    exact dropped (victim_none none_lower 0)
  · obtain ⟨-, others⟩ := allocation holds
    obtain ⟨stolen, -⟩ := others ((firstFree_spec s.players 0).2.2 full)
    exact stolen n v (by rw [victim_of_least held lower least, Nat.zero_add])

/-! ### A CANCEL item (R33) -/

theorem applyCancel_player {s : State} {source event n : Nat} {p : Player} (held : s.players[n]? = some (some p)) :
    (applyCancel source event s).players[n]? =
      some (if p.source = source ∧ p.event = event then p.cancelled else some p) := by
  simp [applyCancel, held, Player.matches]

theorem applyCancel_free {s : State} {source event n : Nat} (free : s.players[n]? = some none) :
    (applyCancel source event s).players[n]? = some none := by
  simp [applyCancel, free]

/-- Settles O27: each player on its own, by its state where it is the one the item names. -/
theorem cancelItem : Obligations.CancelItem := by
  intro s source event n
  refine ⟨rfl, fun p held => ⟨fun other => ?_, fun from_source of_event => ?_⟩, applyCancel_free, by simp [applyCancel]⟩
  · rw [applyCancel_player held, if_neg other]
  · rw [applyCancel_player held, if_pos ⟨from_source, of_event⟩]
    exact ⟨fun armed => by simp [Player.cancelled, armed], fun playing => by simp [Player.cancelled, playing, Config.fullLevel],
      fun fading => by simp [Player.cancelled, fading]⟩

end Sys2Proof.Machine
end

section
namespace Sys2Proof.Machine

/-! ### STORE PROFILE (R25, R157) -/

theorem EndMode.ofCode_eq_none (n : Nat) : EndMode.ofCode n = none ↔ 1 < n := by
  match n with
  | 0 | 1 => simp [EndMode.ofCode]
  | n + 2 => simp [EndMode.ofCode]

theorem EndMode.loop_of_ofCode {n : Nat} {mode : EndMode} (h : EndMode.ofCode n = some mode) : mode = .loop ↔ n = 1 := by
  match n with
  | 0 | 1 => cases h; simp
  | n + 2 => cases h

theorem sampleCount_eq_zero (length : Word16) :
    sampleCount length = 0 ↔ ¬(1 ≤ length.toNat ∧ length.toNat ≤ 256) := by
  simp only [sampleCount]; split <;> omega

/-- What STORE PROFILE gives the Profile Store to write: its samples as cue values. -/
def profileWrite (profile stretch : Byte) (mode : EndMode) (samples : List Word16) : ProfileWrite :=
  { number := profile.toNat, stretch := clamp 1 16 stretch.toNat, endMode := mode, samples := samples.map cueOf }

section
variable {s : State} {profile stretch endMode : Byte} {length : Word16} {samples : List Word16}

/-- STORE PROFILE is answered PARAM by the first checks of R25: the number, the length and the end mode. -/
theorem exec_storeProfile_unnamed (port : s.Open) (config : s.node.state = .config)
    (whole : samples.length = sampleCount length)
    (unnamed : (15 < profile.toNat ∨ sampleCount length = 0) ∨ EndMode.ofCode endMode.toNat = none) :
    exec (.storeProfile profile stretch endMode length samples) s = .next (s.answer .param) := by
  have count : (if 1 ≤ length.toNat ∧ length.toNat ≤ 256 then length.toNat else 0) = sampleCount length := rfl
  simp only [exec, execStoreProfile, State.onPort_open port, State.configCommand_open port config, count]
  rw [if_neg (Nat.not_lt.2 (Nat.le_of_eq whole.symm))]
  rcases unnamed with outside | unknown
  · rw [if_pos outside]
  · rw [unknown]; exact congrArg _ (ite_self _)

/-- With number, length and end mode good, the profile must be undefined and the samples must fit; then the write begins. -/
theorem exec_storeProfile_named {mode : EndMode} (port : s.Open) (config : s.node.state = .config)
    (whole : samples.length = sampleCount length) (number : profile.toNat ≤ 15) (some_sample : sampleCount length ≠ 0)
    (code : EndMode.ofCode endMode.toNat = some mode) :
    exec (.storeProfile profile stretch endMode length samples) s = .next
      (if s.store.profile profile.toNat ≠ none then s.answer .param
      else if 1024 < s.store.nextFree + sampleCount length then s.answer .full
      else State.answer { s with
        store := { s.store with writing := some (profileWrite profile stretch mode samples) }
        port := { s.port with blocking := .storeProfile } } .ok) := by
  have count : (if 1 ≤ length.toNat ∧ length.toNat ≤ 256 then length.toNat else 0) = sampleCount length := rfl
  have all_in : samples.take (sampleCount length) = samples := List.take_of_length_le (Nat.le_of_eq whole)
  simp only [exec, execStoreProfile, State.onPort_open port, State.configCommand_open port config, count, all_in]
  rw [if_neg (Nat.not_lt.2 (Nat.le_of_eq whole.symm)), if_neg (not_or.2 ⟨Nat.not_lt.2 number, some_sample⟩), code]
  rfl

end

/-- Settles O35: the checks of R25 one by one, and the write that begins when they pass. -/
theorem storeProfileChecksAndBegins : Obligations.StoreProfileChecksAndBegins := by
  intro s profile stretch endMode length samples port config whole answered named
  have passes : named → ∃ mode : EndMode, (mode = .loop ↔ endMode.toNat = 1) ∧
      sampleCount length = length.toNat ∧ exec (.storeProfile profile stretch endMode length samples) s = .next
        (if s.store.profile profile.toNat ≠ none then s.answer .param
        else if 1024 < s.store.nextFree + length.toNat then s.answer .full
        else State.answer { s with
          store := { s.store with writing := some (profileWrite profile stretch mode samples) }
          port := { s.port with blocking := .storeProfile } } .ok) := by
    rintro ⟨number, first, last, code⟩
    obtain ⟨mode, code⟩ := Option.ne_none_iff_exists'.1 (mt (EndMode.ofCode_eq_none _).1 (Nat.not_lt.2 code))
    have count : sampleCount length = length.toNat := if_pos ⟨first, last⟩
    have taken := exec_storeProfile_named (stretch := stretch) port config whole number (by omega) code
    rw [count] at taken
    exact ⟨mode, EndMode.loop_of_ofCode code, count, taken⟩
  refine ⟨fun unnamed => ?_, fun holds defined => ?_, fun holds undefined full => ?_, fun holds undefined fits => ?_⟩
  · refine exec_storeProfile_unnamed port config whole ?_
    rw [sampleCount_eq_zero, EndMode.ofCode_eq_none]
    omega
  · obtain ⟨mode, -, -, taken⟩ := passes holds
    rw [if_pos defined] at taken
    exact taken
  · obtain ⟨mode, -, -, taken⟩ := passes holds
    rw [if_neg (not_not.2 undefined), if_pos full] at taken
    exact taken
  · obtain ⟨mode, loops, count, taken⟩ := passes holds
    rw [if_neg (not_not.2 undefined), if_neg (Nat.not_lt.2 fits)] at taken
    refine ⟨profileWrite profile stretch mode samples, taken, rfl, rfl, loops, ?_, fun i inside => ?_⟩
    · simp [profileWrite, whole, count]
    · have inside : i < samples.length := by omega
      simp [profileWrite, List.getD_eq_getElem?_getD, inside, cueOf_eq]

/-! ### PROFILE_WRITE_COMPLETE (R24, R25) -/

theorem Store.written_profile (st : Store) (w : ProfileWrite) (number : w.number < st.profiles.length) :
    (st.written w).profile w.number = some {
      start := st.nextFree, length := w.samples.length, stretch := w.stretch, endMode := w.endMode } :=
  getD_set_self _ _ _ _ number

theorem Store.written_otherProfile (st : Store) (w : ProfileWrite) {n : Nat} (other : n ≠ w.number) :
    (st.written w).profile n = st.profile n := getD_set_ne _ _ _ _ _ other

/-- The samples of a profile stand from the next free position on. -/
theorem Store.written_samples {st : Store} (w : ProfileWrite) (room : st.nextFree ≤ st.samples.length) {i : Nat}
    (inside : i < w.samples.length) : (st.written w).samples.getD (st.nextFree + i) 0 = w.samples.getD i 0 := by
  have before : (st.samples.take st.nextFree).length = st.nextFree := List.length_take_of_le room
  simp only [Store.written, List.getD_eq_getElem?_getD, List.append_assoc]
  rw [List.getElem?_append_right (by omega), before, Nat.add_sub_cancel_left, List.getElem?_append_left inside]

/-- Every sample outside the written ones stays where it is. -/
theorem Store.written_otherSamples {st : Store} (w : ProfileWrite) (room : st.nextFree ≤ st.samples.length) {j : Nat}
    (outside : j < st.nextFree ∨ st.nextFree + w.samples.length ≤ j) :
    (st.written w).samples.getD j 0 = st.samples.getD j 0 := by
  have before : (st.samples.take st.nextFree).length = st.nextFree := List.length_take_of_le room
  simp only [Store.written, List.getD_eq_getElem?_getD, List.append_assoc]
  rcases outside with below | above
  · rw [List.getElem?_append_left (by omega), List.getElem?_take_of_lt below]
  · rw [List.getElem?_append_right (by omega), List.getElem?_append_right (by omega), List.getElem?_drop]
    congr 2; omega

theorem exec_profileWriteComplete {s : State} {w : ProfileWrite} (high : s.inReset = false)
    (writing : s.store.writing = some w) :
    exec .profileWriteComplete s = .next (State.endBlocking { s with store := s.store.written w }) := by
  simp only [exec, execProfileWriteComplete, writing, State.unlessReset_high high]

/-- Settles O36: the store as the write leaves it, read at the profile written and at the others; and the cleared records. -/
theorem profilesAreDefinedAndCleared : Obligations.ProfilesAreDefinedAndCleared := by
  refine ⟨fun s w high writing number size room => ?_, fun s port => ⟨fun elsewhere => ?_, fun config => ?_⟩⟩
  · exact ⟨_, exec_profileWriteComplete high writing, s.store.written_profile w (by omega),
      fun n => s.store.written_otherProfile w, rfl, rfl, fun i => s.store.written_samples w room,
      fun j => s.store.written_otherSamples w room, rfl⟩
  · exact congrArg Host.Outcome.next (State.configCommand_elsewhere port elsewhere)
  · refine ⟨_, congrArg Host.Outcome.next (State.configCommand_open port config), fun n => ?_, rfl, rfl⟩
    show (List.replicate 16 none).getD n none = none
    rw [List.getD_eq_getElem?_getD, List.getElem?_replicate]
    split <;> rfl

end Sys2Proof.Machine
end

section
namespace Sys2Proof.Machine

/-! ### The items of a TRIGGER burst (R29, R43) -/

/-- The record of a START item from an ABSENT peer (R44). -/
def TriggerItem.unannouncedRecord (count : Count) (x : Nat) : TriggerItem → Option Record
  | .start channel event .. => some {
      kind := .triggerDropped, count, station := some x, channel := some channel, detail := some 1
      value := some (event : Int) }
  | .cancel _ => none

/-- The items of an ABSENT peer come to their records alone. -/
theorem dropItems_eq (x : Nat) (items : List TriggerItem) (s : State) : dropItems x items s = { s with
    events := (items.filterMap (TriggerItem.unannouncedRecord s.merge.periodCount x)).foldl EventUnit.offer s.events } := by
  induction items generalizing s with
  | nil => rfl
  | cons item items ih =>
    simp only [dropItems, List.foldl_cons] at ih ⊢
    rw [ih]
    cases item <;> rfl

/-- How a burst ends whose items have been applied: with the records of its vote behind theirs, and with the Level Sender told. -/
theorem applyItems_ends (x endInstant : Nat) (items : List TriggerItem) (s : State) :
    let v := applyItems x endInstant items s
    v.Raised v.revote [] ∧ s.RequestTold v.revote ∧
      v.revote.sender = { s.sender with pending := v.revote.sender.pending } := by
  have told : s.RequestTold (applyItems x endInstant items s).revote :=
    (State.revote_told (applyItems x endInstant items s)).congr
  have sender := (applyItems x endInstant items s).revote_sender
  exact ⟨State.revote_raised _, told, by simpa using sender⟩

/-! ### The header steps of a TRIGGER (R96, R108) -/

/-- The header steps of a burst other than a LEVEL on the record of a peer that is heard. -/
theorem PeerRecord.heard_headed {b : Burst} (level : b.payload.isLevel = false) {p : PeerRecord}
    (heard : p.link = .present ∨ p.link = .holding) (now : Nat) : (p.returned b now).header b now = { p with
      lastRequest := some b.request
      silence := some now
      expected := some ((b.seq + 1) % 256)
      gaps := match p.expected with
        | some e => min 65535 (p.gaps + (b.seq + 256 - e) % 256)
        | none => p.gaps } := by
  have stays : p.returned b now = { p with lastRequest := some b.request } :=
    if_neg fun ⟨lost, _⟩ => by rcases heard with h | h <;> rw [h] at lost <;> cases lost
  have here : p.link ≠ .absent := by rcases heard with h | h <;> rw [h] <;> decide
  have heard := (Link.heard_iff p.link).2 heard
  cases expected : p.expected <;>
    simp [stays, PeerRecord.header, expected, heard, here, level, satAdd, seqGap, Config.counterMax]

/-- The header steps of a TRIGGER return a LOST peer. -/
theorem PeerRecord.lost_headed {b : Burst} (level : b.payload.isLevel = false) (returns : b.payload.returns = true)
    {p : PeerRecord} (lost : p.link = .lost) (now : Nat) : (p.returned b now).header b now = { p with
      lastRequest := some b.request
      link := if b.hold then .holding else .present
      forget := none
      silence := some now
      expected := some ((b.seq + 1) % 256) } := by
  cases hold : b.hold <;> simp [PeerRecord.returned, PeerRecord.header, lost, returns, level, linkOfHold, hold, Link.heard]

/-- An ABSENT peer does not return, so the header steps reach its record alone. -/
theorem State.headerSteps_absent {s : State} {b : Burst} (size : s.peers.length = 15) (first : 1 ≤ b.source)
    (last : b.source ≤ 15) (absent : (s.peerAt b.source).link = .absent) : s.headerSteps b =
      (s.mapPeer b.source fun p => { p with lastRequest := some b.request }).mapPeer b.source (PeerRecord.header b s.now) := by
  obtain ⟨own_row, -⟩ := s.mapPeer_at b.source (fun p => { p with lastRequest := some b.request }) size first last
  have stays : (s.mapPeer b.source fun p => { p with lastRequest := some b.request }).settleReturn b =
      s.mapPeer b.source fun p => { p with lastRequest := some b.request } :=
    if_neg (by rw [own_row]; simp [absent])
  simp [State.headerSteps, stays]

/-- Records raised before the header steps of an ABSENT peer's burst stand as those raised after them. -/
theorem State.headerSteps_withEvents {s : State} {b : Burst} (size : s.peers.length = 15) (first : 1 ≤ b.source)
    (last : b.source ≤ 15) (absent : (s.peerAt b.source).link = .absent) (events : EventUnit) :
    State.headerSteps { s with events } b = { s.headerSteps b with events } := by
  have absent' : (State.peerAt { s with events } b.source).link = .absent :=
    (congrArg PeerRecord.link (State.peerAt_congr rfl _)).trans absent
  rw [State.headerSteps_absent size first last absent,
    State.headerSteps_absent (s := { s with events }) size first last absent']
  cases b.source <;> rfl

/-! ### A TRIGGER applied (R29, R95, R103) -/

section
variable {s : State} {f : FifoEntry} {items : List TriggerItem} (trigger : f.burst.payload = .trigger items)
include trigger

/-- No TRIGGER touches the Source Table. -/
theorem State.applyEntry_triggerSources : (s.applyEntry f).sources = s.sources := by
  simp only [State.applyEntry, State.applyOwn, State.applyContents, trigger, State.revote_frame]
  (repeat' split) <;> simp

theorem State.applyEntry_ownTrigger (self : f.burst.source = s.cfg.station) (named : f.burst.source ≠ 0) (own : f.own = true) :
    s.applyEntry f = (applyItems f.burst.source f.endInstant items s).revote := by
  rw [self] at named ⊢
  simp [State.applyEntry, named, own, State.applyOwn, trigger, self]

theorem State.applyEntry_peerTrigger (size : s.peers.length = 15) (first : 1 ≤ f.burst.source) (last : f.burst.source ≤ 15)
    (other : f.burst.source ≠ s.cfg.station) (heard : f.own = false) (present : (s.peerAt f.burst.source).link ≠ .absent) :
    s.applyEntry f = (applyItems f.burst.source f.endInstant items (s.headerSteps f.burst)).revote := by
  obtain ⟨headed, -⟩ := s.headerSteps_peers f.burst size first last
  have link : ((s.headerSteps f.burst).peerAt f.burst.source).link ≠ .absent := by
    rw [headed, PeerRecord.header_link (by rw [trigger]; rfl), PeerRecord.returned]
    split
    · cases f.burst.hold <;> simp [linkOfHold]
    · exact present
  simp [State.applyEntry, Nat.ne_of_gt first, heard, other, State.applyContents, trigger, link]

/-- Of an ABSENT peer's TRIGGER the START items are recorded, and the burst is unannounced (R29, R103). -/
theorem State.applyEntry_absentTrigger (size : s.peers.length = 15) (first : 1 ≤ f.burst.source)
    (last : f.burst.source ≤ 15) (other : f.burst.source ≠ s.cfg.station) (heard : f.own = false)
    (absent : (s.peerAt f.burst.source).link = .absent) :
    let events := (items.filterMap
      (TriggerItem.unannouncedRecord s.merge.periodCount f.burst.source)).foldl EventUnit.offer s.events
    s.applyEntry f =
      ((State.headerSteps { s with events } f.burst).applyUnannounced f.burst.source).revote := by
  obtain ⟨headed, -, -, events⟩ := s.headerSteps_peers f.burst size first last
  rw [PeerRecord.absent_headed _ absent] at headed
  rw [if_neg (by simp [absent])] at events
  have link : ((s.headerSteps f.burst).peerAt f.burst.source).link = .absent := by rw [headed]; exact absent
  have dropped : dropItems f.burst.source items (s.headerSteps f.burst) = State.headerSteps { s with
      events := (items.filterMap
        (TriggerItem.unannouncedRecord s.merge.periodCount f.burst.source)).foldl EventUnit.offer s.events } f.burst := by
    rw [dropItems_eq]
    refine Eq.trans ?_ (State.headerSteps_withEvents size first last absent _).symm
    simp only [events, State.headerSteps_frame]
  dsimp only
  rw [← dropped]
  simp [State.applyEntry, Nat.ne_of_gt first, heard, other, State.applyContents, trigger, link]

/-- How this node's own TRIGGER ends (R29, R43, R65). -/
theorem State.ownTrigger_ends (self : f.burst.source = s.cfg.station) (named : f.burst.source ≠ 0) (own : f.own = true) :
    let u := s.applyEntry f
    let v := applyItems f.burst.source f.endInstant items s
    u.peers = s.peers ∧ (u.node = s.node ∧ u.port = s.port ∧ u.counters = s.counters ∧
      u.sender = { s.sender with pending := u.sender.pending }) ∧ s.RequestTold u ∧
    u.players = v.players ∧ v.Raised u [] := by
  obtain ⟨raised, told, sender⟩ := applyItems_ends f.burst.source f.endInstant items s
  simp only [State.applyEntry_ownTrigger trigger self named own]
  exact ⟨by simp, ⟨by simp, by simp, by simp, sender⟩, told, by simp, raised⟩

/-- How the TRIGGER of a peer that is not ABSENT ends, its items applied on what the header steps leave (R29, R43, R65). -/
theorem State.peerTrigger_ends (size : s.peers.length = 15) (first : 1 ≤ f.burst.source) (last : f.burst.source ≤ 15)
    (other : f.burst.source ≠ s.cfg.station) (heard : f.own = false) (present : (s.peerAt f.burst.source).link ≠ .absent) :
    let u := s.applyEntry f
    let v := applyItems f.burst.source f.endInstant items { s with
      peers := u.peers, events := (s.headerSteps f.burst).events }
    u.peers = (s.headerSteps f.burst).peers ∧ (u.node = s.node ∧ u.port = s.port ∧ u.counters = s.counters ∧
      u.sender = { s.sender with pending := u.sender.pending }) ∧ s.RequestTold u ∧
    u.players = v.players ∧ v.Raised u [] := by
  have headed : { s with peers := (s.headerSteps f.burst).peers, events := (s.headerSteps f.burst).events } =
      s.headerSteps f.burst := by apply State.eq_of_fields <;> simp
  obtain ⟨raised, told, sender⟩ := applyItems_ends f.burst.source f.endInstant items (s.headerSteps f.burst)
  have peers : (applyItems f.burst.source f.endInstant items (s.headerSteps f.burst)).revote.peers =
      (s.headerSteps f.burst).peers := by simp
  simp only [State.applyEntry_peerTrigger trigger size first last other heard present, peers, headed]
  exact ⟨trivial, ⟨by simp, by simp, by simp, by simpa using sender⟩, told.congr, by simp, raised⟩

/-- How the TRIGGER of an ABSENT peer ends (R29, R44, R103). -/
theorem State.absentTrigger_ends (size : s.peers.length = 15) (first : 1 ≤ f.burst.source) (last : f.burst.source ≤ 15)
    (other : f.burst.source ≠ s.cfg.station) (heard : f.own = false) (absent : (s.peerAt f.burst.source).link = .absent) :
    let u := s.applyEntry f
    let p := s.peerAt f.burst.source
    u.peerAt f.burst.source = { p with
      lastRequest := some f.burst.request, undeclared := min 65535 (p.undeclared + 1) } ∧
    (∀ y, y ≠ f.burst.source → u.peerAt y = s.peerAt y) ∧
    (u.node = s.node ∧ u.port = s.port ∧ u.counters = s.counters ∧
      u.sender = { s.sender with pending := u.sender.pending }) ∧ u.players = s.players ∧
    s.Raised u (items.filterMap (TriggerItem.unannouncedRecord s.merge.periodCount f.burst.source)) ∧
    State.AnnounceTold { s with peers := u.peers } u := by
  have applied := State.applyEntry_absentTrigger trigger size first last other heard absent
  dsimp only at applied
  generalize hd : (items.filterMap (TriggerItem.unannouncedRecord s.merge.periodCount f.burst.source)).foldl EventUnit.offer
    s.events = events at applied
  have rows (y : Nat) : State.peerAt { s with events } y = s.peerAt y := State.peerAt_congr rfl y
  obtain ⟨own_row, others, raised, told, sender⟩ := State.unannounced_ends (s := { s with events }) (b := f.burst) size first
    last ((congrArg _ (rows _)).trans absent)
  simp only [rows] at own_row others
  simp only [applied]
  exact ⟨own_row, others, ⟨by simp, by simp, by simp, sender⟩, by simp, raised.after_records hd.symm, told⟩

end

/-- Settles O57: the items are applied on the state the header steps leave, which differs from the one before the burst in the
peers alone, and for a LOST peer in PEER_RETURNED. -/
theorem triggerIsApplied : Obligations.TriggerIsApplied := by
  intro s f items rest high between size fifo trigger x p apply
  let taken : State := { s with fifo := rest }
  have items_applied (v : State) : apply v = applyItems x f.endInstant items v := by
    refine congrArg (List.foldl · v items) (funext fun v => funext fun item => ?_)
    cases item <;> rfl
  have rows (y : Nat) : taken.peerAt y = s.peerAt y := State.peerAt_congr rfl y
  refine ⟨taken.applyEntry f, exec_applyBurst high between fifo, by simp [taken], State.revote_voted _,
    State.applyEntry_triggerSources trigger, fun own self named => ?_, fun heard first last other => ?_, ?_⟩
  · rw [items_applied]
    exact State.ownTrigger_ends (s := taken) trigger self named own
  · by_cases absent : p.link = .absent
    · obtain ⟨own_row, others, kept, players, raised, told⟩ := State.absentTrigger_ends (s := taken) trigger size first last
        other heard ((congrArg _ (rows x)).trans absent)
      rw [rows] at own_row
      refine ⟨fun y away => (others y away).trans (rows y), kept, fun h => absurd absent h, fun h => ?_, fun lost => ?_,
        fun _ => ⟨own_row, players, ?_, told⟩⟩
      · rcases h with h | h <;> rw [h] at absent <;> cases absent
      · rw [lost] at absent; cases absent
      · intro drops
        have records : drops = items.filterMap (TriggerItem.unannouncedRecord s.merge.periodCount x) :=
          congrArg (List.filterMap · items) (funext fun item => by cases item <;> rfl)
        rw [records]
        exact raised
    · obtain ⟨peers, kept, told, ends⟩ := State.peerTrigger_ends (s := taken) trigger size first last other heard
        (by rw [rows]; exact absent)
      obtain ⟨headed, others, -, events⟩ := taken.headerSteps_peers f.burst size first last
      have own_row := (State.peerAt_congr peers x).trans headed
      rw [rows] at own_row events
      have level : f.burst.payload.isLevel = false := by rw [trigger]; rfl
      refine ⟨fun y away => ((State.peerAt_congr peers y).trans (others y away)).trans (rows y), kept, fun _ => told,
        fun present => ⟨?_, ?_⟩, fun lost lostAt since => ⟨?_, ?_⟩, fun h => absurd h absent⟩
      · exact own_row.trans (PeerRecord.heard_headed level present s.now)
      · rw [if_neg fun ⟨lost, _⟩ => by rcases present with h | h <;> rw [h] at lost <;> cases lost] at events
        rw [events] at ends
        rw [items_applied]
        exact ends
      · exact own_row.trans (PeerRecord.lost_headed level (by rw [trigger]; rfl) lost s.now)
      · rw [if_pos ⟨lost, by rw [trigger]; rfl⟩, since] at events
        rw [events] at ends
        intro returned
        rw [show returned = _ from items_applied _]
        exact ends
  · apply State.eq_of_fields <;> simp [taken, State.applyEntry_triggerSources trigger]

end Sys2Proof.Machine
end

section
namespace Sys2Proof.Machine

/-! ### What an engine that turns to its entry rests on (R120, R139) -/

/-- The turn to the current entry rests on the line, the queue and what a burst is built of. -/
theorem State.TurnsToDefer.congr {s s' u : State} (turns : s'.TurnsToDefer u) (line : s'.line = s.line) (tx : s'.tx = s.tx)
    (announce : s'.announce = s.announce) (cfg : s'.cfg = s.cfg) (output : s'.output = s.output)
    (peers : s'.peers = s.peers) : s.TurnsToDefer u := by
  have rows (x : Nat) : s'.peerAt x = s.peerAt x := State.peerAt_congr peers x
  simp only [State.TurnsToDefer, State.DriveBegins, line, tx, announce, cfg, output, rows] at turns ⊢
  exact turns

theorem State.enterDefer_announce (s : State) :
    s.enterDefer.announce = { s.announce with state := s.enterDefer.announce.state } := by
  simp only [State.enterDefer, State.startAttempt]
  (repeat' split) <;> rfl

/-- An attempt that starts leaves the bodies as they are, but that of a page that had not begun. -/
theorem Started.bodies {l l' : List TxEntry} (h : Started l l') (kept : ∀ e ∈ l, e.begun = true ∨ e.isPage = false) :
    l'.map (·.body) = l.map (·.body) := by
  rcases h with rfl | ⟨e, rest, s, rfl, rfl⟩
  · rfl
  · have body : (s.begunEntry e).body = e.body := by
      rcases kept e (by simp) with begun | other
      · rw [State.begunEntry, if_pos begun]
      · exact begunEntry_body other
    rw [List.map_cons, List.map_cons, body]

/-! ### The BYE (R105, R129) -/

/-- The queue as LEAVE leaves it, before the engine turns: the entries that have begun and the BYE behind them. -/
def State.byeQueued (s : State) : State :=
  let kept := s.tx.entries.filter (·.begun)
  { s with
    tx := { s.tx with entries := kept ++ [{ body := .bye }], last := (s.tx.current + kept.length + 1) % 8 }
    announce := { s.announce with
      waiting := false, state := if kept.any (·.isPage) then s.announce.state else .none } }

theorem State.byeQueued_kept (s : State) : ∀ e ∈ s.byeQueued.tx.entries, e.begun = true ∨ e.isPage = false := by
  intro e he
  rcases List.mem_append.1 he with begun | bye
  · exact .inl (List.of_mem_filter begun)
  · rw [List.mem_singleton.1 bye]; exact .inr rfl

theorem State.byeQueued_engine (s : State) : s.byeQueued.tx.engine = s.tx.engine := rfl

/-- The BYE joins the entries that stay, and an engine that QUIET has stopped or is stopping works on (R129). -/
theorem State.queueBye_eq (s : State) : s.queueBye =
    match s.byeQueued.wake.tx.engine with
    | .suspending w => { s.byeQueued.wake with tx := { s.byeQueued.wake.tx with engine := .working w } }
    | .suspended => s.byeQueued.wake.enterDefer
    | _ => s.byeQueued.wake := by
  have last (n : Nat) : (n % 8 + 1) % 8 = (n + 1) % 8 := by omega
  simp only [State.queueBye, State.enqueue, Tx.push, Config.txPlaces, last] <;> rfl

/-- An IDLE or SUSPENDED engine turns to its entry. -/
theorem State.queueBye_turns {s : State} (still : s.tx.engine = .idle ∨ s.tx.engine = .suspended) :
    s.queueBye = s.byeQueued.enterDefer := by
  rw [State.queueBye_eq]
  rcases still with idle | suspended
  · have wakes : s.byeQueued.wake = s.byeQueued.enterDefer := if_pos ⟨idle, by simp [State.byeQueued]⟩
    have works := s.byeQueued.enterDefer_engine
    rw [State.byeQueued_engine, idle] at works
    rw [wakes]
    rcases works with defers | drives
    · rw [defers]; rfl
    · rw [drives]; rfl
  · rw [State.wake_busy (by rw [State.byeQueued_engine, suspended]; decide), State.byeQueued_engine, suspended]

/-- A working engine keeps its step, and a SUSPENDING one works on in its step. -/
theorem State.queueBye_runs {s : State} {w : Work} (runs : s.tx.engine = .working w ∨ s.tx.engine = .suspending w) :
    s.queueBye = { s.byeQueued with tx := { s.byeQueued.tx with engine := .working w } } := by
  rw [State.queueBye_eq]
  rcases runs with working | suspending
  · rw [State.wake_busy (by rw [State.byeQueued_engine, working]; simp), State.byeQueued_engine, working]
    simp [State.byeQueued, working]
  · rw [State.wake_busy (by rw [State.byeQueued_engine, suspending]; simp), State.byeQueued_engine, suspending]

theorem State.queueBye_stays {s : State} (out : s.tx.engine = .off ∨ s.tx.engine = .stopped) :
    s.queueBye = s.byeQueued := by
  rw [State.queueBye_eq]
  rcases out with off | stopped
  · rw [State.wake_busy (by rw [State.byeQueued_engine, off]; decide), State.byeQueued_engine, off]
  · rw [State.wake_busy (by rw [State.byeQueued_engine, stopped]; decide), State.byeQueued_engine, stopped]

/-- What the queue and the announce record hold after LEAVE, whatever the engine does with them. -/
theorem State.queueBye_queue (s : State) :
    s.queueBye.tx.entries.map (·.body) = (s.tx.entries.filter (·.begun)).map (·.body) ++ [.bye] ∧
    s.queueBye.announce.remembered = s.announce.remembered ∧ s.queueBye.announce.waiting = false := by
  have bodies : s.byeQueued.tx.entries.map (·.body) = (s.tx.entries.filter (·.begun)).map (·.body) ++ [.bye] := by
    simp [State.byeQueued]
  have turned (still : s.tx.engine = .idle ∨ s.tx.engine = .suspended) :
      s.queueBye.tx.entries.map (·.body) = (s.tx.entries.filter (·.begun)).map (·.body) ++ [.bye] ∧
      s.queueBye.announce.remembered = s.announce.remembered ∧ s.queueBye.announce.waiting = false := by
    rw [State.queueBye_turns still, s.byeQueued.enterDefer_started.bodies s.byeQueued_kept, s.byeQueued.enterDefer_announce]
    exact ⟨bodies, rfl, rfl⟩
  cases engine : s.tx.engine with
  | off => rw [State.queueBye_stays (.inl engine)]; exact ⟨bodies, rfl, rfl⟩
  | stopped => rw [State.queueBye_stays (.inr engine)]; exact ⟨bodies, rfl, rfl⟩
  | idle => exact turned (.inl engine)
  | suspended => exact turned (.inr engine)
  | working w => rw [State.queueBye_runs (.inl engine)]; exact ⟨bodies, rfl, rfl⟩
  | suspending w => rw [State.queueBye_runs (.inr engine)]; exact ⟨bodies, rfl, rfl⟩

/-! ### LEAVE (R71, R113, R131) -/

/-- The record of a node that becomes LEAVING (R113). -/
def State.leavingRecord (s : State) : Record :=
  { kind := .nodeState, count := s.merge.periodCount, detail := some 3, value := some (s.node.state.code : Int) }

/-- LEAVE of a talking node as it comes to its vote. -/
def State.leaveBegun (s : State) : State :=
  let leaving := s.enterNode .leaving
  { leaving with
    node := { leaving.node with window := none }
    announce := { leaving.announce with remembered := false }
    sender := leaving.sender.silenced
    port := { leaving.port with blocking := .leave } }

theorem State.leaveTalking_eq (s : State) : s.leaveTalking = s.leaveBegun.revote.queueBye := rfl

/-- The stage of a node that has left ACTIVE stands still or eases (R71). -/
theorem State.revote_eases {s : State} (outside : s.node.state ≠ .active) :
    s.revote.output.stage ≠ .live ∧ s.revote.output.stage ≠ .rising := by
  have stage := s.revote_stage
  refine ⟨fun live => outside ?_, fun rising => outside ?_⟩
  · exact (stage.1 (.inl live)).2
  · exact (stage.1 (.inr rising)).2

/-- The records of an event rest on the event queue and the Output Stage. -/
theorem State.Raised.congr {s u v : State} {records : List Record} (raised : s.Raised u records)
    (events : v.events = u.events) (output : v.output = u.output) : s.Raised v records := by
  simp only [State.Raised, State.voteRecords, events, output] at raised ⊢
  exact raised

theorem exec_leave {s : State} (t : Nat) (port : s.Open) (joined : s.node.state = .joining ∨ s.node.state = .active) :
    (s.cfg.station ≠ 0 → exec (.leave t) s = .next ((s.advance t).leaveTalking.answer .ok)) ∧
    (s.cfg.station = 0 → exec (.leave t) s = .next ((s.advance t).leaveListening.answer .ok)) := by
  have port : (s.advance t).Open := port
  simp only [exec, execLeave, State.command_open port, State.advance_frame, if_pos joined, State.listener]
  exact ⟨fun talks => by simp [talks], fun listens => by simp [listens]⟩

/-- What LEAVE of a talking node leaves beside the queue, the line and the announce record. -/
theorem State.leaveTalking_ends (s : State) :
    let u := s.leaveTalking
    u.node = { s.node with state := .leaving, window := none } ∧
    u.sender = { s.sender with state := .silent, levelTimer := none, refresh := none, pending := none } ∧
    u.port = { s.port with blocking := .leave } ∧
    u.Voted ∧ (u.output.stage ≠ .live ∧ u.output.stage ≠ .rising) ∧ u.output.factor = s.output.factor ∧
    s.Raised u [s.leavingRecord] := by
  obtain ⟨-, -, -, sender⟩ := State.revote_silent (s := s.leaveBegun) rfl
  obtain ⟨-, -, factor, -⟩ := s.leaveBegun.revote_output
  have eases := State.revote_eases (s := s.leaveBegun) (by simp [State.leaveBegun])
  have raised : s.Raised s.leaveBegun.revote [s.leavingRecord] :=
    s.leaveBegun.revote_raised.after_records rfl rfl rfl rfl
  have voted : s.leaveBegun.revote.queueBye.Voted :=
    State.voted_congr s.leaveBegun.revote_voted (by simp) (by simp) (by simp) (by simp) (by simp) (by simp)
  refine ⟨by simp [State.leaveTalking_eq, State.leaveBegun], ?_, by simp [State.leaveTalking_eq, State.leaveBegun], voted, ?_,
    ?_, raised.congr (by simp [State.leaveTalking_eq]) (by simp [State.leaveTalking_eq])⟩
  · simp only [State.leaveTalking_eq, State.queueBye_frame, sender]; rfl
  · simpa only [State.leaveTalking_eq, State.queueBye_frame] using eases
  · simp only [State.leaveTalking_eq, State.queueBye_frame, factor]; rfl

/-- The queue, the line and the announce record after LEAVE of a talking node, by the engine it finds (R105, R120, R129). -/
theorem State.leaveTalking_queue (s : State) :
    let kept := s.tx.entries.filter (·.begun)
    let u := s.leaveTalking
    let left : State := { s with
      output := u.output
      tx := { s.tx with entries := kept ++ [{ body := .bye }], last := (s.tx.current + kept.length + 1) % 8 }
      announce := { s.announce with
        remembered := false, waiting := false, state := if kept.any (·.isPage) then s.announce.state else .none } }
    u.tx.entries.map (·.body) = kept.map (·.body) ++ [.bye] ∧
    u.announce.remembered = false ∧ u.announce.waiting = false ∧
    (s.tx.engine = .idle ∨ s.tx.engine = .suspended → left.TurnsToDefer u) ∧
    (∀ w, s.tx.engine = .working w ∨ s.tx.engine = .suspending w →
      u.tx = { left.tx with engine := .working w } ∧ u.announce = left.announce ∧ u.line = s.line) ∧
    (s.tx.engine = .off ∨ s.tx.engine = .stopped → u.tx = left.tx ∧ u.announce = left.announce ∧ u.line = s.line) := by
  obtain ⟨tx, line, announce, -⟩ := State.revote_silent (s := s.leaveBegun) rfl
  rw [State.leaveTalking_eq]
  have cfg : s.leaveBegun.revote.cfg = s.cfg := by simp [State.leaveBegun]
  have peers : s.leaveBegun.revote.peers = s.peers := by simp [State.leaveBegun]
  generalize s.leaveBegun.revote = r at *
  replace tx : r.tx = s.tx := tx
  replace line : r.line = s.line := line
  replace announce : r.announce = { s.announce with remembered := false } := announce
  obtain ⟨bodies, remembered, waiting⟩ := r.queueBye_queue
  rw [tx] at bodies
  rw [announce] at remembered
  have queued : r.byeQueued.tx = { s.tx with
      entries := s.tx.entries.filter (·.begun) ++ [{ body := .bye }]
      last := (s.tx.current + (s.tx.entries.filter (·.begun)).length + 1) % 8 } := by
    simp only [State.byeQueued, tx]
  have told : r.byeQueued.announce = { s.announce with
      remembered := false, waiting := false
      state := if (s.tx.entries.filter (·.begun)).any (·.isPage) then s.announce.state else .none } := by
    simp only [State.byeQueued, tx, announce]
  refine ⟨bodies, remembered, waiting, fun still => ?_, fun w runs => ?_, fun out => ?_⟩
  · have turns := r.byeQueued.enterDefer_turns
    rw [← tx] at still
    rw [State.queueBye_turns still]
    exact turns.congr line queued told cfg (by simp [State.byeQueued]) peers
  · rw [← tx] at runs
    rw [State.queueBye_runs runs, ← queued]
    exact ⟨rfl, told, line⟩
  · rw [← tx] at out
    rw [State.queueBye_stays out]
    exact ⟨queued, told, line⟩

/-! ### LEAVE of a listener (R49, R76, R113) -/

/-- LEAVE of a listener as it enters LEAVING. -/
def State.listenerLeaves (s : State) : State :=
  let leaving := s.enterNode .leaving
  { leaving with
    node := { leaving.node with window := none }
    announce := { leaving.announce with remembered := false } }

theorem State.leaveListening_between {s : State} (between : s.merge.pass = none) :
    s.leaveListening = s.listenerLeaves.turnStage.completeLeave :=
  if_neg (by simp [between])

/-- LEAVE of a listener in a pass as it comes to its vote: LEAVE completion is due and held. -/
def State.leaveHeld (s : State) : State :=
  { s.listenerLeaves with
    node := { s.listenerLeaves.node with leaveDue := true }
    merge := { s.merge with held := s.merge.held ++ [.leaveCompletion] } }

theorem State.leaveListening_inPass {s : State} (pass : s.merge.pass ≠ none) :
    s.leaveListening = s.leaveHeld.revote :=
  if_pos (by simpa [Option.isSome_iff_ne_none] using pass)

/-- A stage that was LIVE or RISING turns to EASING on a node that is not ACTIVE, and another stays (R71). -/
theorem State.turnStage_outside {s : State} (outside : s.node.state ≠ .active) :
    (s.output.stage = .live ∨ s.output.stage = .rising → s.turnStage = s.changeStage .easing) ∧
    (¬(s.output.stage = .live ∨ s.output.stage = .rising) → s.turnStage = s) := by
  have stays : s.mayRise = false := by simp [State.mayRise, outside]
  cases stage : s.output.stage <;> simp [State.turnStage, stage, stays]

/-- Where READY is high, a session that ends takes its operation with it and leaves the port as it was. -/
theorem Port.endSession_ready {p : Port} (ready : p.ready = true) : p.endSession = { p with
    blocking := if p.blocking = .storeProfile then .storeProfile else .none } := by
  obtain ⟨decoder, response, offered, r, blocking⟩ := p
  obtain rfl : r = true := ready
  cases blocking <;> rfl

/-- What has ended a session rests on the fields LEAVE completion keeps something of. -/
theorem State.SessionEnded.congr {s s' u : State} (ended : s'.SessionEnded u) (merge : s'.merge = s.merge)
    (monitor : s'.monitor = s.monitor) (tx : s'.tx = s.tx) (peers : s'.peers = s.peers) (line : s'.line = s.line)
    (localRequest : s'.output.localRequest = s.output.localRequest) : s.SessionEnded u := by
  simp only [State.SessionEnded, merge, monitor, tx, peers, line, localRequest] at ended ⊢
  exact ended

/-- Records raised before an event stand before its own, where the stage has changed by its end or has not. -/
theorem State.Raised.behind {s a u : State} {first records : List Record} (raised : a.Raised u records)
    (events : a.events = first.foldl EventUnit.offer s.events) (effective : a.output.effective = s.output.effective)
    (stage : u.output.stage = a.output.stage ↔ u.output.stage = s.output.stage)
    (count : a.merge.periodCount = s.merge.periodCount) : s.Raised u (first ++ records) := by
  simp only [State.Raised, State.voteRecords, effective, stage, count, events, List.foldl_append] at raised ⊢
  exact raised

theorem leaveCompletion_made {v : State} (between : v.merge.pass = none) (high : v.inReset = false) :
    exec .leaveCompletion v = .next (v.makeHeld .leaveCompletion) := by
  simp [exec, execLeaveCompletion, State.unlessReset_high high, between, State.makeHeld]

theorem State.completeLeave_stage (s : State) : s.completeLeave.output.stage = .parked := by
  simp only [State.completeLeave, State.parkNow_output]

/-- The stage of a listener that leaves turns with its record, before LEAVE completion (R71, R76). -/
theorem State.listenerLeaves_turned (s : State) :
    let u := s.listenerLeaves.turnStage
    u.events = (s.leavingRecord ::
      if s.output.stage = .live ∨ s.output.stage = .rising then
        [{ kind := .stageChanged, count := s.merge.periodCount, detail := some 1, value := some (s.output.factor : Int) }]
      else []).foldl EventUnit.offer s.events ∧
    (u.output.stage = .parked ↔ s.output.stage = .parked) ∧
    u.output = { s.output with stage := u.output.stage } := by
  obtain ⟨turns, stays⟩ := State.turnStage_outside (s := s.listenerLeaves) (by simp [State.listenerLeaves])
  have output := s.listenerLeaves.turnStage_output
  by_cases turned : s.output.stage = .live ∨ s.output.stage = .rising
  · have moving : s.output.stage ≠ .parked := by rcases turned with h | h <;> rw [h] <;> decide
    rw [turns turned] at output ⊢
    rw [if_pos turned]
    exact ⟨rfl, by simp [moving], output⟩
  · rw [stays turned] at output ⊢
    rw [if_neg turned]
    exact ⟨rfl, Iff.rfl, output⟩

/-- LEAVE of a listener between passes: the stage turns, and LEAVE completion follows at once. -/
theorem State.leaveListening_completes {s : State} (between : s.merge.pass = none) :
    let u := s.leaveListening
    let record := fun (kind : EventKind) (detail : Nat) (value : Int) =>
      ({ kind, count := s.merge.periodCount, detail := some detail, value := some value } : Record)
    s.SessionEnded u ∧ u.port = s.port.endSession ∧
    s.Raised u (s.leavingRecord ::
      (if s.output.stage = .live ∨ s.output.stage = .rising then [record .stageChanged 1 s.output.factor] else []) ++
      [record .nodeState 0 3]) := by
  obtain ⟨events, parked, output⟩ := s.listenerLeaves_turned
  rw [State.leaveListening_between between]
  have merge : s.listenerLeaves.turnStage.merge = s.merge := by simp [State.listenerLeaves]
  have leaving : s.listenerLeaves.turnStage.node.state = .leaving := by simp [State.listenerLeaves]
  have raised := s.listenerLeaves.turnStage.completeLeave_raised
  rw [leaving, merge] at raised
  refine ⟨?_, by simp [State.completeLeave, State.listenerLeaves],
    raised.behind events (by rw [output]) ?_ (by rw [merge])⟩
  · refine s.listenerLeaves.turnStage.completeLeave_ended.congr merge ?_ ?_ ?_ ?_ (by rw [output]) <;>
      simp [State.listenerLeaves]
  · rw [State.completeLeave_stage, eq_comm, parked, eq_comm]

/-- LEAVE of a listener in a pass: the vote is taken, and LEAVE completion is held until the pass ends. -/
theorem State.leaveListening_held {s : State} (pass : s.merge.pass ≠ none) :
    let u := s.leaveListening
    u.node = { s.node with state := .leaving, window := none, leaveDue := true } ∧
    u.merge = { s.merge with held := s.merge.held ++ [.leaveCompletion] } ∧ u.Voted ∧
    State.RequestTold { s with announce := { s.announce with remembered := false } } u ∧
    u.sender = { s.sender with pending := u.sender.pending } ∧
    (u.output.stage ≠ .live ∧ u.output.stage ≠ .rising) ∧ u.output.factor = s.output.factor ∧
    s.Raised u [s.leavingRecord] := by
  rw [State.leaveListening_inPass pass]
  obtain ⟨-, -, factor, -⟩ := s.leaveHeld.revote_output
  have told : State.RequestTold { s with announce := { s.announce with remembered := false } } s.leaveHeld.revote :=
    s.leaveHeld.revote_told.congr rfl rfl rfl rfl rfl rfl rfl rfl
  have raised : s.Raised s.leaveHeld.revote [s.leavingRecord] :=
    s.leaveHeld.revote_raised.after_records rfl rfl rfl rfl
  have eases := State.revote_eases (s := s.leaveHeld) (by simp [State.leaveHeld, State.listenerLeaves])
  exact ⟨by simp [State.leaveHeld, State.listenerLeaves], by simp [State.leaveHeld], s.leaveHeld.revote_voted, told,
    s.leaveHeld.revote_sender, eases, factor, raised⟩

/-- Settles O38: a talking node takes its vote with the Level Sender SILENT and then queues the BYE; a listener completes LEAVE,
or in a pass holds the completion back. -/
theorem leaveEndsTheSession : Obligations.LeaveEndsTheSession := by
  intro s t port joined
  obtain ⟨talking, listening⟩ := exec_leave t port joined
  refine ⟨fun talks => ⟨_, talking talks, ?_⟩, fun listens between => ⟨_, listening listens, ?_⟩,
    fun listens pass => ⟨_, listening listens, ?_⟩⟩
  · obtain ⟨node, sender, blocks, voted, ⟨not_live, not_rising⟩, factor, raised⟩ := (s.advance t).leaveTalking_ends
    obtain ⟨bodies, remembered, waiting, turns, runs, stays⟩ := (s.advance t).leaveTalking_queue
    have frame := (s.advance t).leaveTalking_frame
    generalize (s.advance t).leaveTalking = u at *
    refine ⟨by simp [frame], node, sender, ?_, ⟨bodies, remembered, waiting, fun still => ?_, runs, stays⟩,
      u.answer_voted voted _ _, not_live, not_rising, factor, raised, ?_⟩
    · simp only [State.answer_port, blocks]; rfl
    · exact (turns still).congr rfl rfl rfl rfl rfl rfl
    · apply State.eq_of_fields <;> simp [frame]
  · obtain ⟨ended, port', raised⟩ := State.leaveListening_completes (s := s.advance t) between
    have now : (s.advance t).leaveListening.now = max s.now t := by simp
    have frame := (s.advance t).leaveListening_frame
    generalize (s.advance t).leaveListening = u at *
    obtain ⟨-, -, ready⟩ := port
    refine ⟨now, ended, ?_, raised, ?_⟩
    · simp only [State.answer_port, port', State.advance_frame, Port.endSession_ready ready]; rfl
    · obtain ⟨-, sources, fifo, -⟩ := ended
      apply State.eq_of_fields <;> simp [frame, sources, fifo]
  · obtain ⟨node, merge, voted, told, sender, ⟨not_live, not_rising⟩, factor, raised⟩ :=
      State.leaveListening_held (s := s.advance t) pass
    have frame := (s.advance t).leaveHeld.revote_frame
    rw [← State.leaveListening_inPass (s := s.advance t) pass] at frame
    generalize (s.advance t).leaveListening = u at *
    obtain ⟨high, -, -⟩ := port
    obtain ⟨pending, now, inReset, haltLow, strobes, cfg, store, fifo, peers, sources, players, -, monitor, -, counters,
      port'⟩ := frame
    refine ⟨now, node, merge, ?_, u.answer_voted voted _ _, ?_, told, sender, not_live, not_rising, factor, raised, ?_⟩
    · simp only [State.answer_port, port']; rfl
    · exact State.madeAsThePassEnds (s := { u.answer .ok with merge := s.merge }) pass (inReset.trans high)
        fun v between high _ => ⟨fun _ => leaveCompletion_made between high, False.elim⟩
    · exact State.eq_of_fields pending rfl inReset haltLow strobes cfg store rfl fifo peers rfl sources players rfl rfl monitor
        rfl rfl rfl counters rfl rfl

end Sys2Proof.Machine
end

section
/-! Proofs of the statements of 03_axis_computation.md. -/

namespace Sys2Proof.Machine

/-! ### The axis stages (R51 to R54) -/

/-- The limited value moves toward the demand by at most the slew, and reaches a demand that lies within it (R52). -/
theorem rateLimit_spec (slew : Nat) (limited demand : Int) :
    (rateLimit slew limited demand - limited).natAbs ≤ slew ∧
    ((demand - limited).natAbs ≤ slew → rateLimit slew limited demand = demand) ∧
    (limited + slew < demand → rateLimit slew limited demand = limited + slew) ∧
    (demand < limited - slew → rateLimit slew limited demand = limited - slew) := by
  simp only [rateLimit, clampInt]; omega

theorem clipValue_natAbs_le (clip : Nat) (pre : Int) : (clipValue clip pre).natAbs ≤ clip := by
  simp only [clipValue, clampInt]; omega

theorem getD_map_axisNumbers {α β : Type} (f : Nat → α) (g : α → β) (d : β) {a : Nat} (h : a < 8) :
    ((axisNumbers.map f).map g).getD a d = g (f a) := by
  rw [List.map_map]; exact getD_axisNumbers (g ∘ f) d h

/-- The monitors of a pass in progress: each axis's flags settled by what the axis comes to (R54, R82, R84). -/
theorem State.beginPass_monitors (s : State) (o : HandOverOrder) : (s.beginPass o).monitor.axes = axisNumbers.map fun a =>
    (s.monitor.axes.getD a {}).settle (s.cfg.axes.getD a {})
      ((s.countExpiry.mergeChannels s.countExpiry.now).axisResult s.output.factor a) := rfl

/-- What axis `a` comes to in a whole pass: it is computed on the channel values the pass keeps, from the limited value before it
and with the factor the pass begins with, and the frame carries its output and its clip flag. -/
theorem State.passPublished_axis (s : State) (o : HandOverOrder) {a : Nat} (axis : a < 8) :
    let result := (s.cfg.axes.getD a {}).compute (s.passPublished o).merge.lastChannels.values s.output.factor
      (s.merge.limited.getD a 0)
    (s.passPublished o).merge.limited.getD a 0 = result.limited ∧
    (s.passPublished o).merge.frame.outputs.getD a 0 = result.output ∧
    (s.passPublished o).merge.frame.clips.getD a false = clipFlag (s.cfg.axes.getD a {}).clip result.pre := by
  refine ⟨getD_map_axisNumbers _ _ _ axis, getD_map_axisNumbers _ _ _ axis, ?_⟩
  show ((s.beginPass o).monitor.axes.map (·.clip)).getD a false = _
  rw [State.beginPass_monitors]
  exact getD_map_axisNumbers _ _ _ axis

/-- Settles O19: the pass publishes each axis as it is computed, and the rate limit and the clip hold it in their bounds. -/
theorem axisStages : Obligations.AxisStages := by
  intro s o a high between axis
  refine ⟨_, exec_wholePass o high between, ?_⟩
  simp only [State.handOver_frame]
  obtain ⟨limited, output, clips⟩ := s.passPublished_axis o axis
  rw [limited, output, clips]
  obtain ⟨moved, reached, up, down⟩ := rateLimit_spec (s.cfg.axes.getD a {}).slew (s.merge.limited.getD a 0)
    ((s.cfg.axes.getD a {}).demand (s.passPublished o).merge.lastChannels.values)
  exact ⟨moved, reached, up, down, rfl, clipValue_natAbs_le _ _, rfl⟩

end Sys2Proof.Machine
end

section
namespace Sys2Proof.Machine

/-! ### SET TIMING, SET STAGE and ROUTE ALERTS (R47, R77, R94, R135, R141, R171) -/

theorem clamp_eq (lo hi x : Nat) (ordered : lo ≤ hi) : clamp lo hi x = min hi (max lo x) := by
  simp only [clamp]; omega

theorem EventClass.ofCode_eq_none (n : Nat) : EventClass.ofCode n = none ↔ 4 < n := by
  match n with
  | 0 | 1 | 2 | 3 | 4 => simp [EventClass.ofCode]
  | n + 5 => simp [EventClass.ofCode]

theorem Route.ofCode_eq_none (n : Nat) : Route.ofCode n = Option.none ↔ 2 < n := by
  match n with
  | 0 | 1 | 2 => simp [Route.ofCode]
  | n + 3 => simp [Route.ofCode]

theorem Routes.of_put (routes : Routes) (route : Route) (k k' : EventClass) :
    (routes.put route k).of k' = if k' = k then route else routes.of k' := by
  cases k <;> cases k' <;> rfl

theorem mem_allRoles (r : Role) : r ∈ allRoles := by cases r <;> decide

theorem exec_routeAlerts {s : State} (port : s.Open) (config : s.node.state = .config) (cls route : Byte) :
    (∀ k r, EventClass.ofCode cls.toNat = some k → Route.ofCode route.toNat = some r →
      exec (.routeAlerts cls route) s =
        .next (State.answer { s with events := { s.events with routes := s.events.routes.put r k } } .ok)) ∧
    (EventClass.ofCode cls.toNat = none ∨ Route.ofCode route.toNat = none →
      exec (.routeAlerts cls route) s = .next (s.answer .param)) := by
  simp only [exec, execRouteAlerts, State.configCommand_open port config]
  refine ⟨fun k r class_ dest => by rw [class_, dest], fun unnamed => ?_⟩
  rcases unnamed with unknown | unknown <;> rw [unknown]
  cases EventClass.ofCode cls.toNat <;> rfl

/-- Settles O32: each command is taken, and the settings it writes are read back in their ranges. -/
theorem timingStageAndRoutesReplaced : Obligations.TimingStageAndRoutesReplaced := by
  refine ⟨fun s period interval hold refresh silence forget stale window persist port config => ?_,
    fun s port config => ⟨fun ease park rise roles => ?_, fun cls route => ?_⟩⟩
  · refine ⟨_, congrArg Host.Outcome.next (State.configCommand_open port config), ?_⟩
    simp only [State.answer_frame, timingOf, clamp_eq, Nat.reduceLeDiff]
    exact ⟨Nat.min_comm _ _, trivial, trivial, trivial, Nat.max_comm _ _, Nat.max_comm _ _, trivial, trivial, by simp, rfl⟩
  · refine ⟨_, congrArg Host.Outcome.next (State.configCommand_open port config), rfl, rfl, rfl, fun r => ?_, rfl⟩
    simp [mem_allRoles]
  · obtain ⟨routed, refused⟩ := exec_routeAlerts port config cls route
    refine ⟨fun k r class_ dest => ⟨_, routed k r class_ dest, ?_⟩, fun unnamed => ?_⟩
    · exact ⟨(Routes.of_put _ _ _ _).trans (if_pos rfl), fun k' other => (Routes.of_put _ _ _ _).trans (if_neg other), rfl⟩
    · exact refused (by rwa [EventClass.ofCode_eq_none, Route.ofCode_eq_none])

/-! ### DEFINE AXIS (R50, R80, R81) -/

/-- Settles O34: the command is taken, and the records it writes are read back at their number and at no other. -/
theorem defineAxisReplacesTheRecord : Obligations.DefineAxisReplacesTheRecord := by
  intro s axis count slot0 slot1 slot2 slot3 slew clip warn hysteresis limit hardCount port config axes monitors used
  have taps : used.any (fun t => 15 < t.channel.toNat) = true ↔ ∃ t ∈ used, 15 < t.channel.toNat := by simp
  simp only [exec, execDefineAxis, State.configCommand_open port config]
  refine ⟨fun number slots channels => ?_, fun bad => ?_⟩
  · have named : ¬(7 < axis.toNat ∨ 4 < count.toNat ∨ used.any (fun t => 15 < t.channel.toNat) = true) := by
      rw [taps]
      rintro (above | above | ⟨t, mem, above⟩)
      exacts [by omega, by omega, absurd (channels t mem) (by omega)]
    rw [if_neg named]
    exact ⟨_, rfl, getD_set_self _ _ _ _ (by omega), fun a other => getD_set_ne _ _ _ _ _ other,
      getD_set_self _ _ _ _ (by omega), fun a other => getD_set_ne _ _ _ _ _ other, rfl⟩
  · rw [if_pos (by rwa [taps])]
    rfl

end Sys2Proof.Machine
end

section
namespace Sys2Proof.Machine

/-! ### The bytes of a response (R155, R165) -/

theorem toNat_byte (n : Nat) : (byte n).toNat = n % 256 := BitVec.toNat_ofNat _ _

theorem toNat_byte_of_lt {n : Nat} (small : n < 256) : (byte n).toNat = n := by rw [toNat_byte, Nat.mod_eq_of_lt small]

theorem NodeState.code_lt (x : NodeState) : x.code < 256 := by cases x <;> decide

theorem Mode.code_lt (m : Mode) : m.code < 256 := by cases m <;> decide

theorem Stage.code_lt (g : Stage) : g.code < 256 := by cases g <;> decide

theorem Link.code_lt (l : Link) : l.code < 256 := by cases l <;> decide

theorem roleCode_lt (r : Option Role) : roleCode r < 256 := by
  cases r with
  | none => decide
  | some r => cases r <;> decide

theorem Engine.code_lt (e : Engine) : e.code < 256 := by
  cases e with
  | working w => cases w <;> decide
  | suspending w => exact (by decide : 5 < 256)
  | off | idle | suspended | stopped => decide

/-- A two-byte field read most significant byte first. -/
theorem bytes16_reads (n : Nat) : 256 * (byte (n / 256)).toNat + (byte n).toNat = n % 65536 := by
  simp only [toNat_byte]; omega

theorem toNat_bytes16 (n : Nat) : (byte (n / 256) ++ byte n : Word16).toNat = n % 65536 :=
  (congrArg BitVec.toNat (word16_bytes16 n)).trans (BitVec.toNat_ofNat _ _)

/-- A byte put behind others. -/
theorem toNat_append_byte {m : Nat} (w : BitVec m) (n : Nat) : (w ++ byte n).toNat = 256 * w.toNat + n % 256 := by
  rw [BitVec.toNat_append, ← Nat.shiftLeft_add_eq_or_of_lt (byte n).isLt, Nat.shiftLeft_eq, toNat_byte, Nat.mul_comm]

/-- A four-byte field put together again. -/
theorem bytes32_reads (w : BitVec 32) :
    byte (w.toNat / 16777216) ++ byte (w.toNat / 65536) ++ byte (w.toNat / 256) ++ byte w.toNat = w := by
  apply BitVec.eq_of_toNat_eq
  have bound := w.isLt
  simp only [toNat_append_byte, toNat_byte]
  omega

/-- The flags of a list as the bits of a number, the first the lowest. -/
theorem testBit_flags (flags : List Bool) (a : Nat) :
    (flags.foldr (fun (b : Bool) acc => 2 * acc + if b then 1 else 0) 0).testBit a = flags.getD a false := by
  induction flags generalizing a with
  | nil => simp
  | cons b flags ih =>
    cases a with
    | zero => cases b <;> simp [Nat.testBit_zero]
    | succ a =>
      rw [List.foldr_cons, Nat.testBit_succ, List.getD_cons_succ, ← ih]
      congr 1; split <;> omega

/-- Bit `a` of a byte of flags is the flag of axis `a`. -/
theorem flagsByte_bit (flags : List Bool) {a : Nat} (axis : a < 8) : (flagsByte flags).getLsbD a = flags.getD a false := by
  rw [flagsByte, byte, BitVec.getLsbD_ofNat, List.foldl_reverse, testBit_flags]
  simp [axis]

section
variable {α : Type} (before after : List Byte) (hi lo : α → Byte) (l : List α)

theorem length_pairs : (l.flatMap fun a => [hi a, lo a]).length = 2 * l.length := by simp [Nat.mul_comm]

/-- The two bytes of entry `i` of a list whose entries take two bytes each, `before` standing in front of them. -/
theorem getD_pairs {i : Nat} {a : α} (entry : l[i]? = some a) :
    let bytes := before ++ l.flatMap (fun a => [hi a, lo a]) ++ after
    bytes.getD (before.length + 2 * i) 0 = hi a ∧ bytes.getD (before.length + 1 + 2 * i) 0 = lo a := by
  simp only [List.append_assoc, Nat.add_assoc]
  rw [List.getD_append_right _ _ _ _ (Nat.le_add_right _ _), List.getD_append_right _ _ _ _ (Nat.le_add_right _ _)]
  simp only [Nat.add_sub_cancel_left, Nat.add_comm 1]
  induction l generalizing i with
  | nil => cases entry
  | cons b l ih =>
    cases i with
    | zero => cases entry; exact ⟨rfl, rfl⟩
    | succ i => exact ih entry

/-- What stands behind such a list. -/
theorem getD_behindPairs (k : Nat) :
    (before ++ l.flatMap (fun a => [hi a, lo a]) ++ after).getD (before.length + 2 * l.length + k) 0 = after.getD k 0 := by
  have size : (before ++ l.flatMap fun a => [hi a, lo a]).length = before.length + 2 * l.length := by
    rw [List.length_append, length_pairs]
  rw [← size, List.getD_append_right _ _ _ _ (Nat.le_add_right _ _), Nat.add_sub_cancel_left]

/-- The two-byte field of entry `i` of a list whose entries take one each. -/
theorem getD_fields (field : α → Nat) {i : Nat} {a : α} (entry : l[i]? = some a) :
    let bytes := before ++ l.flatMap (fun a => bytes16 (field a)) ++ after
    bytes.getD (before.length + 2 * i) 0 ++ bytes.getD (before.length + 1 + 2 * i) 0 = BitVec.ofNat 16 (field a) := by
  obtain ⟨hi, lo⟩ := getD_pairs before after (fun a => byte (field a / 256)) (fun a => byte (field a)) l entry
  exact (congrArg₂ word16 hi lo).trans (word16_bytes16 _)

end

/-! ### The reads (R21, R57, R115, R162) -/

theorem exec_status {s : State} (high : s.inReset = false) (waits : s.port.decoder = .waiting) :
    exec .status s = .next (s.answer .ok s.statusData) := by
  simp only [exec, execStatus, State.onPort, high, waits]; rfl

theorem exec_takeOutput {s : State} (port : s.Open) : exec .takeOutput s = .next (s.answer .ok s.merge.frame.data) :=
  congrArg Host.Outcome.next (State.command_open port)

theorem exec_takeChannels {s : State} (port : s.Open) :
    exec .takeChannels s = .next (s.answer .ok s.merge.lastChannels.data) :=
  congrArg Host.Outcome.next (State.command_open port)

theorem exec_peer {s : State} (port : s.Open) (station : Byte) : exec (.peer station) s = .next
    (if station.toNat = 0 ∨ 15 < station.toNat then s.answer .param else s.answer .ok (s.peerAt station.toNat).data) :=
  congrArg Host.Outcome.next (State.command_open port)

/-- The response to TAKE OUTPUT up to the outputs of the axes. -/
def Frame.head (f : Frame) : List Byte :=
  byte 0 :: bytes32 f.number.toNat ++ [byte f.nodeState.code, byte f.mode.code, byte f.stage.code] ++ bytes16 f.factor

/-- The response to TAKE OUTPUT behind the outputs of the axes. -/
def Frame.tail (f : Frame) : List Byte := [flagsByte f.clips, flagsByte f.warns, boolByte f.trip]

theorem Frame.data_eq (f : Frame) : byte 0 :: f.data = f.head ++ f.outputs.flatMap signedBytes ++ f.tail := rfl

theorem getElem?_eq_some_getD {α : Type} {l : List α} {i : Nat} (d : α) (inside : i < l.length) : l[i]? = some (l.getD i d) := by
  simp [List.getD_eq_getElem?_getD, inside]

theorem getD_signedBytes (before after : List Byte) {values : List Int} {i : Nat} (inside : i < values.length) :
    let bytes := before ++ values.flatMap signedBytes ++ after
    bytes.getD (before.length + 2 * i) 0 ++ bytes.getD (before.length + 1 + 2 * i) 0 = BitVec.ofInt 16 (values.getD i 0) := by
  have read := getD_fields before after values (fun x => (BitVec.ofInt 16 x).toNat) (getElem?_eq_some_getD 0 inside)
  rwa [BitVec.ofNat_toNat, BitVec.setWidth_eq] at read

theorem flatMap_signedBytes_length (values : List Int) : (values.flatMap signedBytes).length = 2 * values.length :=
  length_pairs (fun x => byte ((BitVec.ofInt 16 x).toNat / 256)) (fun x => byte (BitVec.ofInt 16 x).toNat) values

theorem flatMap_bytes16_length (values : List Nat) : (values.flatMap bytes16).length = 2 * values.length :=
  length_pairs (fun n => byte (n / 256)) byte values

section
variable {f : Frame} (outputs : f.outputs.length = 8)
include outputs

theorem Frame.data_length : (byte 0 :: f.data).length = 29 := by
  rw [f.data_eq, List.length_append, List.length_append, flatMap_signedBytes_length, outputs]; rfl

theorem Frame.outputs_read {a : Nat} (axis : a < 8) :
    (byte 0 :: f.data).getD (10 + 2 * a) 0 ++ (byte 0 :: f.data).getD (11 + 2 * a) 0 = BitVec.ofInt 16 (f.outputs.getD a 0) :=
  getD_signedBytes f.head f.tail (outputs.symm ▸ axis)

theorem Frame.tail_read (k : Nat) : (byte 0 :: f.data).getD (26 + k) 0 = f.tail.getD k 0 := by
  have behind := getD_behindPairs f.head f.tail (fun x => byte ((BitVec.ofInt 16 x).toNat / 256))
    (fun x => byte (BitVec.ofInt 16 x).toNat) f.outputs k
  rwa [outputs] at behind

end

/-- The response to TAKE CHANNELS up to the channel values. -/
def LastChannels.head (l : LastChannels) : List Byte := byte 0 :: bytes32 l.count.toNat

theorem LastChannels.data_eq (l : LastChannels) :
    byte 0 :: l.data = l.head ++ l.values.flatMap signedBytes ++ l.ages.flatMap bytes16 := rfl

section
variable {l : LastChannels} (values : l.values.length = 16) (ages : l.ages.length = 16)
include values ages

theorem LastChannels.data_length : (byte 0 :: l.data).length = 69 := by
  rw [l.data_eq, List.length_append, List.length_append, flatMap_signedBytes_length, flatMap_bytes16_length, values, ages]; rfl

theorem LastChannels.data_read {c : Nat} (channel : c < 16) :
    let r := byte 0 :: l.data
    r.getD (5 + 2 * c) 0 ++ r.getD (6 + 2 * c) 0 = BitVec.ofInt 16 (l.values.getD c 0) ∧
    r.getD (37 + 2 * c) 0 ++ r.getD (38 + 2 * c) 0 = BitVec.ofNat 16 (l.ages.getD c 0) := by
  refine ⟨getD_signedBytes l.head (l.ages.flatMap bytes16) (values.symm ▸ channel), ?_⟩
  have read := getD_fields (l.head ++ l.values.flatMap signedBytes) [] l.ages id (getElem?_eq_some_getD 0 (ages.symm ▸ channel))
  have before : (l.head ++ l.values.flatMap signedBytes).length = 37 := by
    rw [List.length_append, flatMap_signedBytes_length, values]; rfl
  rwa [before, List.append_nil] at read

end

/-- The response to PEER up to the declarations. -/
def PeerRecord.head (p : PeerRecord) : List Byte :=
  [byte 0, boolByte p.self, byte p.link.code, byte (roleCode p.role), byteOrAbsent (p.lastRequest.map Mode.code)] ++
  bytes16 (p.expected.getD 0xFFFF) ++ bytes16 p.gaps ++ [byte p.losses] ++ bytes16 p.undeclared ++ [byte p.declared.length]

theorem PeerRecord.data_eq (p : PeerRecord) :
    byte 0 :: p.data = p.head ++ p.declared.flatMap (fun d => [byte d.1, byte d.2]) ++ [] := by
  rw [List.append_nil]; rfl

theorem PeerRecord.data_length (p : PeerRecord) : (byte 0 :: p.data).length = 13 + 2 * p.declared.length := by
  rw [p.data_eq, List.append_nil, List.length_append, length_pairs]; rfl

theorem PeerRecord.declared_read (p : PeerRecord) {i : Nat} {d : Declaration} (entry : p.declared[i]? = some d) :
    ((byte 0 :: p.data).getD (13 + 2 * i) 0).toNat = d.1 % 256 ∧
    ((byte 0 :: p.data).getD (14 + 2 * i) 0).toNat = d.2 % 256 := by
  obtain ⟨channel, rank⟩ := getD_pairs p.head [] (fun d => byte d.1) (fun d => byte d.2) p.declared entry
  rw [p.data_eq]
  exact ⟨(congrArg BitVec.toNat channel).trans (toNat_byte _), (congrArg BitVec.toNat rank).trans (toNat_byte _)⟩

theorem toNat_requestByte (request : Option Mode) : (byteOrAbsent (request.map Mode.code)).toNat = match request with
    | some m => m.code
    | none => 255 := by
  cases request with
  | none => rfl
  | some m => exact toNat_byte_of_lt m.code_lt

/-- Settles O44: each read answers with its data and changes nothing else, and each byte of the data is read at its place. -/
theorem readsGiveTheState : Obligations.ReadsGiveTheState := by
  intro s high waits
  refine ⟨⟨_, exec_status high waits, rfl, rfl, toNat_byte_of_lt s.node.state.code_lt, rfl,
      toNat_byte_of_lt s.tx.engine.code_lt, toNat_byte_of_lt s.output.effective.code_lt,
      toNat_byte_of_lt s.output.stage.code_lt, bytes16_reads _, rfl, toNat_byte _, toNat_byte _, bytes16_reads _,
      bytes16_reads _, bytes16_reads _, bytes16_reads _, bytes16_reads _⟩,
    fun ready => ⟨fun outputs => ?_, fun values ages => ?_, fun station => ⟨fun first last => ?_, fun outside => ?_⟩⟩⟩
  · have tail := Frame.tail_read outputs
    refine ⟨_, exec_takeOutput ⟨high, waits, ready⟩, Frame.data_length outputs, rfl, bytes32_reads _,
      toNat_byte_of_lt s.merge.frame.nodeState.code_lt, toNat_byte_of_lt s.merge.frame.mode.code_lt,
      toNat_byte_of_lt s.merge.frame.stage.code_lt, bytes16_reads _, fun a axis => ?_, tail 2⟩
    refine ⟨Frame.outputs_read outputs axis, ?_, ?_⟩
    · exact (congrArg (·.getLsbD a) (tail 0)).trans (flagsByte_bit _ axis)
    · exact (congrArg (·.getLsbD a) (tail 1)).trans (flagsByte_bit _ axis)
  · exact ⟨_, exec_takeChannels ⟨high, waits, ready⟩, LastChannels.data_length values ages, rfl, bytes32_reads _,
      fun c => LastChannels.data_read values ages⟩
  · have taken := exec_peer ⟨high, waits, ready⟩ station
    rw [if_neg (by omega)] at taken
    intro p
    exact ⟨_, taken, p.data_length, rfl, rfl, toNat_byte_of_lt p.link.code_lt, toNat_byte_of_lt (roleCode_lt p.role),
      toNat_requestByte p.lastRequest, toNat_bytes16 _, toNat_bytes16 _, toNat_byte _, toNat_bytes16 _, toNat_byte _,
      fun i d => p.declared_read⟩
  · have taken := exec_peer ⟨high, waits, ready⟩ station
    rwa [if_pos outside] at taken

end Sys2Proof.Machine
end

section
namespace Sys2Proof.Machine

/-! ### The resets (R70, R159, R164) -/

theorem State.peerAt_stations {s : State} {f : Nat → PeerRecord} (rows : s.peers = stations.map f) {x : Nat} (first : 1 ≤ x)
    (last : x ≤ 15) : s.peerAt x = f x := by
  obtain ⟨n, rfl⟩ := Nat.exists_eq_add_of_le' first
  have inside : n < 15 := by omega
  simp [State.peerAt, rows, stations, List.getD_eq_getElem?_getD, inside]

theorem exec_restart {s : State} (t : Nat) (port : s.Open) :
    exec (.restart t) s = .next ((s.advance t).restarted.answer .ok) :=
  congrArg Host.Outcome.next (State.command_open (s := s.advance t) port)

/-- The node while RST_N is held low, from its fall on (R164). -/
def State.fallen (s : State) : State := { s with
  inReset := true
  merge := { s.merge with pass := none, held := [] }
  line := { s.line.closed with drive := .idle, wait := .none }
  store := { s.store with writing := none }
  port := { decoder := s.port.decoder.discarded, ready := false } }

theorem exec_rstNFall (s : State) : exec .rstNFall s = .next s.fallen := rfl

/-! ### Transactions (R155, R164) -/

/-- A command that comes in a transaction is a matter of the port: what it does, it does where the port takes it. -/
theorem exec_transaction (c : Instr) (s : State) (transaction : encodeTransaction c ≠ none) :
    ∃ t taken, exec c s = .next (State.onPort { s with now := t } taken) := by
  cases c with
  | unknownCommand | setStation | setTiming | defineChannel | defineAxis | storeProfile | clearProfiles | setStage
  | routeAlerts | quiet | post | status | takeOutput | takeChannels | peer | takeEvents => exact ⟨s.now, _, rfl⟩
  | join t | leave t | restart t | speak t | fire t | cancel t | askMode t => exact ⟨max s.now t, _, rfl⟩
  | _ => exact absurd rfl transaction

theorem exec_transactionEnd_unanswered {s : State} (clocked : Nat)
    (unanswered : s.inReset = true ∨ s.port.decoder ≠ .givingResponse) :
    exec (.transactionEnd clocked) s = .next { s with port := { s.port with decoder := .waiting } } := by
  have closed : ¬(s.inReset = false ∧ s.port.decoder = .givingResponse) := by
    rintro ⟨high, gives⟩
    rcases unanswered with low | other
    exacts [absurd (high.symm.trans low) (by decide), other gives]
  exact congrArg Host.Outcome.next (if_neg closed)

/-- From `u` to `v` only the levels at the pins and the line have changed, with the instant and what the port makes of SEL_N. -/
def State.PinsOnly (u v : State) : Prop := v = { u with
  now := v.now, haltLow := v.haltLow, line := { u.line with run := v.line.run }
  port := { u.port with decoder := v.port.decoder } }

/-- While RST_N is low no command but POWER_ON_RESET changes anything but the levels at the pins and the line. -/
theorem State.fallen_pinsOnly {s v : State} {c : Instr} (other : ∀ t, c ≠ .powerOnReset t) (taken : exec c s.fallen = .next v) :
    s.fallen.PinsOnly v := by
  by_cases transaction : encodeTransaction c = none
  · cases c with
    | powerOnReset t => exact absurd rfl (other t)
    | transactionEnd | profileWriteComplete | outputPeriodExpiry | joinWindowExpiry | leaveCompletion | applyBurst | rstNFall
    | gapEnd | echoCheck | collision | jamEnd | backoffWaitEnd | attemptCompletes | runEnd => cases taken; rfl
    | carrierStart =>
      cases taken
      simp only [State.PinsOnly]
      split <;> rfl
    | haltNChange | silenceTimerExpiry | forgetTimerExpiry | assemblyTimeLimit | announceHoldOffExpiry | levelIntervalExpiry
    | refreshTimerExpiry | staleDeadline =>
      simp only [exec, execHaltNChange, execSilenceTimerExpiry, execForgetTimerExpiry, execAssemblyTimeLimit,
        execAnnounceHoldOffExpiry, execLevelIntervalExpiry, execRefreshTimerExpiry, execStaleDeadline] at taken
      split at taken <;> cases taken <;> rfl
    | _ => cases transaction
  · obtain ⟨t, effect, onPort⟩ := exec_transaction c s.fallen transaction
    rw [onPort] at taken
    cases taken
    rfl

/-- Settles O40: the two resets leave the states they name; after the fall of RST_N the port ignores its transactions and every
other command finds nothing that runs; and an ignored transaction ends at the rise of SEL_N. -/
theorem resetsPutTheNodeBack : Obligations.ResetsPutTheNodeBack := by
  refine ⟨fun s t => ?_, fun s => ⟨s.fallen, exec_rstNFall s, ?_⟩, fun s high ignores => ?_⟩
  · refine ⟨⟨_, rfl, ⟨rfl, rfl, rfl, rfl, rfl, rfl, rfl, rfl, rfl, rfl, rfl, rfl, rfl, rfl, rfl, rfl, rfl, rfl, rfl⟩, rfl, rfl,
      rfl, ?_, rfl⟩, fun port => ⟨_, exec_restart t port, ⟨rfl, rfl, rfl, rfl, rfl, rfl, rfl, rfl, rfl, rfl, rfl, rfl, rfl, rfl, rfl,
      rfl, rfl, rfl, rfl⟩, rfl, rfl, rfl, ?_, fun st first last => ?_⟩⟩
    · rw [← Decoder.discarded_eq]; rfl
    · obtain ⟨-, -, ready⟩ := port
      simp only [State.answer_port, State.restarted, Port.answered, ready]; rfl
    · exact State.peerAt_stations (f := fun st => { self := st == s.cfg.station }) rfl first last
  · refine ⟨rfl, rfl, rfl, rfl, rfl, rfl, rfl, rfl, rfl, rfl, ?_, fun c v other taken => ?_⟩
    · rw [← Decoder.discarded_eq]; rfl
    · have pins := State.fallen_pinsOnly other taken
      have low : v.inReset = true := by rw [pins]; rfl
      refine ⟨pins, fun n isEnd => ?_, fun transaction => ?_,
        fun k => ⟨State.sdo_zero (.inl rfl) k, State.sdo_zero (.inl low) k⟩⟩
      · subst isEnd; cases taken; rfl
      · obtain ⟨t, effect, onPort⟩ := exec_transaction c s.fallen transaction
        rw [onPort] at taken
        cases taken
        rfl
  · have quiet : s.port.decoder ≠ .givingResponse := by rw [ignores]; decide
    refine ⟨fun c transaction => ?_, fun n => exec_transactionEnd_unanswered n (.inr quiet), State.sdo_zero (.inr quiet)⟩
    obtain ⟨t, effect, onPort⟩ := exec_transaction c s transaction
    refine ⟨t, onPort.trans (congrArg _ (State.onPort_ignored high ?_))⟩
    simp [ignores]

end Sys2Proof.Machine
end

section
/-! Proofs of the statements of 04_mode_vote_and_the_output_stage.md. -/

namespace Sys2Proof.Machine

/-! ### The stage a vote turns to (R71) -/

/-- The stage that the effective mode and the node state turn this one to, `rises` saying whether they let the stage rise (R71). -/
def Stage.turned (rises : Bool) : Stage → Stage
  | .live => if rises then .live else .easing
  | .rising => if rises then .rising else .easing
  | .easing => if rises then .rising else .easing
  | .parked => if rises then .rising else .parked

/-- No vote ends a ramp. -/
theorem Stage.turned_atEnd (g : Stage) {rises : Bool} :
    (g.turned rises = .live → g = .live) ∧ (g.turned rises = .parked → g = .parked) := by
  cases g <;> cases rises <;> decide

theorem Stage.turned_down (g : Stage) : g.turned false = if g = .live ∨ g = .rising then .easing else g := by
  cases g <;> rfl

theorem State.turnStage_turned (s : State) : s.turnStage.output.stage = s.output.stage.turned s.mayRise := by
  simp only [State.turnStage]
  cases stage : s.output.stage <;> cases rises : s.mayRise <;> simp [Stage.turned, stage]

theorem State.revote_turned (s : State) : s.revote.output.stage =
    s.output.stage.turned (s.revote.output.effective == .live && s.node.state == .active) := by
  have voted : s.revote.output.effective = s.formRequest.evaluateMode.output.effective := by
    rw [State.revote, State.turnStage_output]
  rw [voted, State.revote, State.turnStage_turned, State.mayRise]
  simp only [State.evaluateMode_output, State.formRequest_output, State.evaluateMode_frame, State.formRequest_frame]

/-! ### The factor step (R72, R73, R75) -/

section
variable {s : State}

theorem State.stepFactor_rests (ends : s.output.stage = .live ∨ s.output.stage = .parked) : s.stepFactor = s := by
  rcases ends with stage | stage <;> simp [State.stepFactor, stage]

theorem State.stepFactor_eases (stage : s.output.stage = .easing) (above : s.easeBy < s.output.factor) :
    s.stepFactor = { s with output := { s.output with factor := s.output.factor - s.easeBy } } := by
  simp only [State.stepFactor, stage, if_pos above]

theorem State.stepFactor_parks (stage : s.output.stage = .easing) (within : s.output.factor ≤ s.easeBy) :
    s.stepFactor = { s with
      output := { s.output with factor := 0, stage := .parked }
      players := List.replicate 8 none
      events := s.events.offer
        { kind := .stageChanged, count := s.merge.periodCount, detail := some 2, value := some 0 } } := by
  simp only [State.stepFactor, stage, if_neg (Nat.not_lt.2 within)]
  rfl

theorem State.stepFactor_rises (stage : s.output.stage = .rising) (below : s.output.factor + s.cfg.riseStep < 4096) :
    s.stepFactor = { s with output := { s.output with factor := s.output.factor + s.cfg.riseStep } } := by
  simp only [State.stepFactor, stage, Config.fullFactor, if_pos below]

theorem State.stepFactor_arrives (stage : s.output.stage = .rising) (reached : 4096 ≤ s.output.factor + s.cfg.riseStep) :
    s.stepFactor = { s with
      output := { s.output with factor := 4096, stage := .live }
      events := s.events.offer
        { kind := .stageChanged, count := s.merge.periodCount, detail := some 0, value := some 4096 } } := by
  simp only [State.stepFactor, stage, Config.fullFactor, if_neg (Nat.not_lt.2 reached)]
  rfl

end

/-- The stage and the factor after a factor step. -/
def State.stepped (s : State) : Stage × Nat :=
  match s.output.stage with
  | .easing => if s.output.factor ≤ s.easeBy then (.parked, 0) else (.easing, s.output.factor - s.easeBy)
  | .rising =>
    if 4096 ≤ s.output.factor + s.cfg.riseStep then (.live, 4096) else (.rising, s.output.factor + s.cfg.riseStep)
  | stage => (stage, s.output.factor)

/-- The record with which a factor step ends a ramp (R75, R79). -/
def State.rampRecords (s : State) : List Record :=
  if s.output.stage = .easing ∧ s.output.factor ≤ s.easeBy then
    [{ kind := .stageChanged, count := s.merge.periodCount, detail := some 2, value := some 0 }]
  else if s.output.stage = .rising ∧ 4096 ≤ s.output.factor + s.cfg.riseStep then
    [{ kind := .stageChanged, count := s.merge.periodCount, detail := some 0, value := some 4096 }]
  else []

/-- What a factor step does to the Output Stage and which record it raises. -/
theorem State.stepFactor_ends (s : State) :
    s.stepFactor.output = { s.output with stage := s.stepped.1, factor := s.stepped.2 } ∧
    s.stepFactor.events = s.rampRecords.foldl EventUnit.offer s.events := by
  cases stage : s.output.stage with
  | live =>
    rw [State.stepFactor_rests (.inl stage)]
    exact ⟨by simp only [State.stepped, stage]; rw [← stage], by simp [State.rampRecords, stage]⟩
  | parked =>
    rw [State.stepFactor_rests (.inr stage)]
    exact ⟨by simp only [State.stepped, stage]; rw [← stage], by simp [State.rampRecords, stage]⟩
  | easing =>
    rcases Nat.lt_or_ge s.easeBy s.output.factor with above | within
    · rw [State.stepFactor_eases stage above]
      exact ⟨by simp [State.stepped, stage, Nat.not_le.2 above], by simp [State.rampRecords, stage, Nat.not_le.2 above]⟩
    · rw [State.stepFactor_parks stage within]
      exact ⟨by simp [State.stepped, stage, within], by simp [State.rampRecords, stage, within]⟩
  | rising =>
    rcases Nat.lt_or_ge (s.output.factor + s.cfg.riseStep) 4096 with below | reached
    · rw [State.stepFactor_rises stage below]
      exact ⟨by simp [State.stepped, stage, Nat.not_le.2 below], by simp [State.rampRecords, stage, Nat.not_le.2 below]⟩
    · rw [State.stepFactor_arrives stage reached]
      exact ⟨by simp [State.stepped, stage, reached], by simp [State.rampRecords, stage, reached]⟩

/-! ### What an event keeps of the two laws and of the latch (R61, R67, R71, R87) -/

/-- From `s` to `u` the law of the Output Stage and that of the vote have been kept, and a trip latch that was set still is. -/
structure VoteKept (s u : State) : Prop where
  output : s.OutputLaw → u.OutputLaw
  vote : s.VoteLaw → u.VoteLaw
  trip : s.monitor.trip = true → u.monitor.trip = true

theorem VoteKept.trans {s u v : State} (h : VoteKept s u) (h' : VoteKept u v) : VoteKept s v :=
  ⟨h'.output ∘ h.output, h'.vote ∘ h.vote, h'.trip ∘ h.trip⟩

/-- The laws and the latch rest on the Output Stage, the node state, the latch and the two pins; while RST_N is low
no level of HALT_N counts. -/
theorem VoteKept.of_eq {s u : State} (output : u.output = s.output := by simp)
    (node : u.node.state = s.node.state := by simp) (trip : u.monitor.trip = s.monitor.trip := by simp)
    (pins : u.inReset = false → s.inReset = false ∧ u.haltLow = s.haltLow := by simp) : VoteKept s u where
  output law := by simpa only [State.OutputLaw, State.FactorLaw, State.StageLaw, State.mayRise, output, node] using law
  vote law := by
    obtain ⟨request, bound⟩ := law
    refine ⟨fun high => ?_, by rwa [output]⟩
    obtain ⟨was_high, halt⟩ := pins high
    rw [State.RequestLaw, State.formOwnRequest_congr halt (by rw [output]) trip node, output]
    exact request was_high
  trip set := trip.trans set

theorem VoteKept.refl (s : State) : VoteKept s s := .of_eq

theorem State.Voted.voteLaw {s : State} (h : s.Voted) : s.VoteLaw :=
  ⟨fun _ => h.1, by rw [h.2]; exact s.ownRequest_le⟩

/-- After a vote both laws hold, if only the factor was right for the stage before it: no vote ends a ramp. -/
theorem VoteKept.of_revote {s a : State} (stage : a.output.stage = s.output.stage := by simp)
    (factor : a.output.factor = s.output.factor := by simp)
    (trip : s.monitor.trip = true → a.monitor.trip = true := by simp) : VoteKept s a.revote where
  output law := by
    obtain ⟨⟨range, live, parked⟩, -⟩ := law
    obtain ⟨-, -, kept, -⟩ := a.revote_output
    have turned := a.revote_turned
    rw [stage] at turned
    obtain ⟨was_live, was_parked⟩ := s.output.stage.turned_atEnd
    refine ⟨⟨?_, fun now => ?_, fun now => ?_⟩, fun now => ?_⟩
    · rwa [kept, factor]
    · rw [kept, factor]; exact live (was_live (turned.symm.trans now))
    · rw [kept, factor]; exact parked (was_parked (turned.symm.trans now))
    · simpa [State.mayRise] using a.revote_stage.1 now
  vote _ := a.revote_voted.voteLaw
  trip set := by simpa using trip set

theorem State.revote_voteKept (s : State) : VoteKept s s.revote := .of_revote

theorem VoteKept.ite {c : Prop} [Decidable c] {s t u : State} (h : VoteKept s t) (h' : VoteKept s u) :
    VoteKept s (if c then t else u) := by
  split
  exacts [h, h']

theorem VoteKept.foldl {β : Type} {f : State → β → State} (h : ∀ s b, VoteKept s (f s b)) (l : List β) (s : State) :
    VoteKept s (l.foldl f s) := by
  induction l generalizing s with
  | nil => exact .refl s
  | cons b l ih => exact (h s b).trans (ih (f s b))

/-- A factor step keeps the range, and it ends a ramp exactly at the factor of the stage it enters. -/
theorem State.stepFactor_voteKept (s : State) : VoteKept s s.stepFactor where
  output law := by
    obtain ⟨⟨range, live, parked⟩, stage⟩ := law
    obtain ⟨output, -⟩ := s.stepFactor_ends
    simp only [State.OutputLaw, State.FactorLaw, State.StageLaw, State.mayRise, output, State.stepFactor_frame, State.stepped]
      at stage ⊢
    cases now : s.output.stage with
    | live => exact ⟨⟨range, fun _ => live now, nofun⟩, fun _ => stage (.inl now)⟩
    | parked => exact ⟨⟨range, nofun, fun _ => parked now⟩, nofun⟩
    | easing =>
      dsimp only
      split
      · exact ⟨⟨Nat.zero_le _, nofun, fun _ => rfl⟩, nofun⟩
      · exact ⟨⟨by dsimp only; omega, nofun, nofun⟩, nofun⟩
    | rising =>
      dsimp only
      split
      · exact ⟨⟨Nat.le_refl _, fun _ => rfl, nofun⟩, fun _ => stage (.inr now)⟩
      · exact ⟨⟨by dsimp only; omega, nofun, nofun⟩, fun _ => stage (.inr now)⟩
  vote law := by
    obtain ⟨request, bound⟩ := law
    obtain ⟨output, -⟩ := s.stepFactor_ends
    refine ⟨fun high => ?_, by rwa [output]⟩
    rw [State.RequestLaw, State.formOwnRequest_congr (s := s) (by simp) (by rw [output]) (by simp) (by simp), output]
    exact request (by simpa using high)
  trip set := by simpa using set

end Sys2Proof.Machine
end

section
namespace Sys2Proof.Machine

/-! ### Operations that keep the laws -/

@[simp] theorem State.endJoin_nodeState (s : State) : s.endJoin.node.state = s.node.state := by
  simp only [State.endJoin]; (repeat' split) <;> simp

@[simp] theorem State.groupOver_nodeState (s : State) (completed : Bool) :
    (s.groupOver completed).node.state = s.node.state := by
  simp only [State.groupOver]; (repeat' split) <;> simp

@[simp] theorem State.dropCurrent_nodeState (s : State) (reason : TxReason) :
    (s.dropCurrent reason).node.state = s.node.state := by
  simp only [State.dropCurrent]; (repeat' split) <;> simp

@[simp] theorem State.attemptFailed_nodeState (s : State) : s.attemptFailed.node.state = s.node.state := by
  simp only [State.attemptFailed]; (repeat' split) <;> simp

@[simp] theorem State.reportCompleted_nodeState (s : State) (e : TxEntry) (groupEnds : Bool) :
    (s.reportCompleted e groupEnds).node.state = s.node.state := by
  simp only [State.reportCompleted]; (repeat' split) <;> simp

theorem State.enterFault_voteKept (s : State) : VoteKept s s.enterFault := by
  by_cases joined : s.node.state.joined = true
  · rw [State.enterFault_eq joined]
    exact .of_revote (by simp [State.faultMade]) (by simp [State.faultMade]) (by simp [State.faultMade])
  · rw [State.enterFault, if_neg joined]
    exact .refl s

/-- A session that has ended has taken the vote, with the stage parked at factor 0, whatever stood before. -/
theorem VoteKept.of_ended {s a u : State} (ended : a.SessionEnded u) (trip : a.monitor.trip = s.monitor.trip := by simp) :
    VoteKept s u := by
  obtain ⟨-, -, -, -, -, monitor, -, -, -, -, -, voted, -, stage, factor⟩ := ended
  refine ⟨fun _ => ⟨⟨by rw [factor]; exact Nat.zero_le _, ?_, fun _ => factor⟩, ?_⟩, fun _ => voted.voteLaw, fun set => ?_⟩
  · rw [stage]; nofun
  · rw [State.StageLaw, stage]; nofun
  · rw [monitor]; exact trip.trans set

theorem State.completeLeave_voteKept (s : State) : VoteKept s s.completeLeave := .of_ended s.completeLeave_ended rfl

theorem State.applyEntry_voteKept (s : State) (e : FifoEntry) : VoteKept s (s.applyEntry e) := by
  refine .trans ?_ (State.revote_voteKept _)
  refine .ite .of_eq (.ite .of_eq (.ite ?_ .of_eq))
  exact .ite (.refl s) (.trans .of_eq (State.enterFault_voteKept _))

theorem State.applyOldest_voteKept (s : State) : VoteKept s s.applyOldest := by
  simp only [State.applyOldest]
  split
  · exact .refl s
  · exact .trans .of_eq (State.applyEntry_voteKept _ _)

theorem State.losePeer_voteKept (s : State) (x : Nat) : VoteKept s (s.losePeer x) := by
  simp only [State.losePeer]
  split
  · exact .ite (.refl s) .of_revote
  · exact .refl s

theorem State.forgetPeer_voteKept (s : State) (x : Nat) : VoteKept s (s.forgetPeer x) := by
  simp only [State.forgetPeer]
  split
  · exact .ite (.refl s) .of_revote
  · exact .refl s

theorem State.createOwnEntries_voteKept (s : State) : VoteKept s s.createOwnEntries := .of_eq

/-! ### A pass keeps the laws (R11, R49, R72, R88) -/

theorem State.makeHeld_voteKept (s : State) (h : HeldChange) : VoteKept s (s.makeHeld h) := by
  cases h with
  | silence x => exact s.losePeer_voteKept x
  | forget x => exact s.forgetPeer_voteKept x
  | applyBurst => exact s.applyOldest_voteKept
  | leaveCompletion => exact .ite s.completeLeave_voteKept (.refl s)
  | ownEntries => exact s.createOwnEntries_voteKept

theorem State.monitorPass_voteKept (s : State) (p : Pass) : VoteKept s (s.monitorPass p) := by
  obtain ⟨events, axes, counted | tripped⟩ := s.monitorPass_cases p
  · rw [counted]; exact .of_eq
  · rw [tripped]; exact .of_revote

theorem State.handOver_voteKept (s : State) (p : Pass) : VoteKept s (s.handOver p) := by
  simp only [State.handOver]
  split
  · exact .trans s.stepFactor_voteKept (State.monitorPass_voteKept _ p)
  · exact .trans (s.monitorPass_voteKept p) (State.stepFactor_voteKept _)

theorem State.finishPass_voteKept (s : State) : VoteKept s s.finishPass := by
  simp only [State.finishPass]
  split
  · exact .refl s
  · refine .trans (.trans ?_ (State.handOver_voteKept _ _)) (.foldl State.makeHeld_voteKept _ _)
    exact .of_eq (by simp) (by simp) (by simp)

theorem State.beginPass_voteKept (s : State) (order : HandOverOrder) : VoteKept s (s.beginPass order) :=
  .of_eq (trip := rfl)

/-! ### A command keeps the laws -/

theorem VoteKept.unlessReset {s t v : State} (started : VoteKept s t) (made : VoteKept s v) :
    VoteKept s (t.unlessReset v) := .ite started made

theorem VoteKept.orHold {s t v : State} (h : HeldChange) (started : VoteKept s t) (made : VoteKept s v) :
    VoteKept s (t.orHold h v) := .ite (.trans started .of_eq) made

/-- The port takes a transaction, or changes nothing beside itself. -/
theorem State.onPort_cases (s taken : State) : s.onPort taken = taken ∨ ∃ port, s.onPort taken = { s with port } := by
  simp only [State.onPort]
  split
  · exact .inr ⟨_, rfl⟩
  · split
    exacts [.inl rfl, .inr ⟨s.port, rfl⟩]

theorem State.command_cases (s taken : State) : s.command taken = taken ∨ ∃ port, s.command taken = { s with port } := by
  rcases s.onPort_cases (if s.port.ready then taken else s.answer .busy) with takes | refused
  · rw [State.command, takes]
    split
    exacts [.inl rfl, .inr ⟨_, rfl⟩]
  · exact .inr refused

theorem VoteKept.onPort {s t v : State} (started : VoteKept s t) (taken : VoteKept s v) : VoteKept s (t.onPort v) := by
  rcases t.onPort_cases v with takes | ⟨port, refused⟩
  · rwa [takes]
  · rw [refused]; exact .trans started .of_eq

theorem VoteKept.command {s t v : State} (started : VoteKept s t) (taken : VoteKept s v) : VoteKept s (t.command v) :=
  .onPort started (.ite taken (.trans started .of_eq))

theorem VoteKept.configCommand {s t v : State} (started : VoteKept s t) (taken : VoteKept s v) :
    VoteKept s (t.configCommand v) := .command started (.ite taken (.trans started .of_eq))

theorem VoteKept.answer {s t : State} (h : VoteKept s t) (r : Result) (data : List Byte) : VoteKept s (t.answer r data) :=
  .trans h .of_eq

theorem State.advance_voteKept (s : State) (t : Nat) : VoteKept s (s.advance t) := .of_eq

/-- JOIN ends with a vote, on a listener and on a talking node. -/
theorem State.joinNow_voteKept (s : State) : VoteKept s s.joinNow := by
  rw [State.joinNow_eq]
  exact .of_revote

theorem State.leaveTalking_voteKept (s : State) : VoteKept s s.leaveTalking := by
  rw [State.leaveTalking_eq]
  exact .trans (.of_revote (a := s.leaveBegun) rfl rfl id) .of_eq

/-- A listener's LEAVE ends with a vote where its completion is held, and with the completion otherwise. -/
theorem State.leaveListening_voteKept (s : State) : VoteKept s s.leaveListening := by
  by_cases between : s.merge.pass = none
  · rw [State.leaveListening_between between]
    exact .of_ended (State.completeLeave_ended _) (by simp [State.listenerLeaves])
  · rw [State.leaveListening_inPass between]
    exact .of_revote rfl rfl id

theorem State.startSender_voteKept (s : State) : VoteKept s s.startSender := .of_eq

/-- The node as it comes to its vote at the end of the join window: ACTIVE, at the deadline (R112). -/
def State.windowEnded (s : State) (started : Nat) : State :=
  let due := s.advance (started + ms s.cfg.timing.silence)
  State.enterNode { due with node := { due.node with window := none } } .active

/-- A command other than the two resets keeps both laws and a latch that is set. -/
theorem exec_voteKept {c : Instr} {s u : State} (no_restart : ∀ t, c ≠ .restart t) (no_reset : ∀ t, c ≠ .powerOnReset t)
    (taken : exec c s = .next u) : VoteKept s u := by
  have stays : VoteKept s s := .refl s
  cases c with
  | powerOnReset t => exact absurd rfl (no_reset t)
  | restart t => exact absurd rfl (no_restart t)
  | haltNChange t low =>
    simp only [exec, execHaltNChange] at taken
    split at taken <;> cases taken
    · exact .of_eq
    · simp only [State.unlessReset]
      split
      next held => exact .of_eq (pins := fun high => absurd (high.symm.trans held) nofun)
      next => exact .of_revote
  | unknownCommand => cases taken; exact .command stays (.answer stays _ _)
  | transactionEnd => cases taken; exact .ite .of_eq .of_eq
  | setStation => cases taken; exact .configCommand stays (.ite (.answer stays _ _) .of_eq)
  | setTiming => cases taken; exact .configCommand stays .of_eq
  | defineChannel channel policy =>
    cases taken
    refine .configCommand stays ?_
    cases Policy.ofCode policy.toNat
    exacts [.answer stays _ _, .ite (.answer stays _ _) .of_eq]
  | defineAxis => cases taken; exact .configCommand stays (.ite (.answer stays _ _) .of_eq)
  | storeProfile profile stretch endMode =>
    cases taken
    refine .onPort stays (.ite .of_eq (.configCommand stays (.ite (.answer stays _ _) ?_)))
    cases EndMode.ofCode endMode.toNat
    exacts [.answer stays _ _, .ite (.answer stays _ _) (.ite (.answer stays _ _) .of_eq)]
  | profileWriteComplete =>
    simp only [exec, execProfileWriteComplete] at taken
    split at taken <;> cases taken
    exacts [.unlessReset stays .of_eq, stays]
  | clearProfiles => cases taken; exact .configCommand stays .of_eq
  | setStage => cases taken; exact .configCommand stays .of_eq
  | routeAlerts cls route =>
    cases taken
    refine .configCommand stays ?_
    cases EventClass.ofCode cls.toNat <;> cases Route.ofCode route.toNat <;> exact .of_eq
  | join t =>
    cases taken
    exact .configCommand .of_eq (.answer (.trans (s.advance_voteKept t) (State.joinNow_voteKept _)) _ _)
  | leave t =>
    cases taken
    have began := s.advance_voteKept t
    refine .command began (.ite (.answer (.ite ?_ ?_) _ _) (.answer began _ _))
    exacts [.trans began (State.leaveListening_voteKept _), .trans began (State.leaveTalking_voteKept _)]
  | quiet => cases taken; exact .command stays (.ite .of_eq (.answer stays _ _))
  | speak => cases taken; exact .command .of_eq (.ite .of_eq .of_eq)
  | post =>
    cases taken
    exact .onPort stays (.ite .of_eq (.command stays (.ite (.answer stays _ _) (.ite (.answer stays _ _) .of_eq))))
  | fire => cases taken; exact .command .of_eq (.ite .of_eq (.ite .of_eq .of_eq))
  | cancel => cases taken; exact .command .of_eq (.ite .of_eq .of_eq)
  | askMode t mode =>
    cases taken
    refine .command .of_eq ?_
    cases Mode.ofCode mode.toNat
    exacts [.of_eq, .answer .of_revote _ _]
  | status => cases taken; exact .onPort stays (.answer stays _ _)
  | takeOutput => cases taken; exact .command stays (.answer stays _ _)
  | takeChannels => cases taken; exact .command stays (.answer stays _ _)
  | peer => cases taken; exact .command stays (.ite (.answer stays _ _) (.answer stays _ _))
  | takeEvents => cases taken; exact .command stays (.ite (.answer stays _ _) .of_eq)
  | outputPeriodExpiry order whole =>
    cases taken
    have begun := s.finishPass_voteKept.trans (State.beginPass_voteKept _ order)
    exact .unlessReset stays (.ite (begun.trans (State.finishPass_voteKept _)) begun)
  | silenceTimerExpiry x =>
    simp only [exec, execSilenceTimerExpiry] at taken
    split at taken <;> cases taken
    · exact .unlessReset stays (.orHold _ .of_eq (.trans (s.advance_voteKept _) (State.losePeer_voteKept _ x)))
    · exact stays
  | forgetTimerExpiry x =>
    simp only [exec, execForgetTimerExpiry] at taken
    split at taken <;> cases taken
    · exact .unlessReset stays (.orHold _ .of_eq (.trans (s.advance_voteKept _) (State.forgetPeer_voteKept _ x)))
    · exact stays
  | assemblyTimeLimit x =>
    simp only [exec, execAssemblyTimeLimit] at taken
    split at taken <;> cases taken
    exacts [.unlessReset stays .of_eq, stays]
  | announceHoldOffExpiry =>
    simp only [exec, execAnnounceHoldOffExpiry] at taken
    split at taken <;> cases taken
    exacts [.unlessReset stays (.ite .of_eq .of_eq), stays]
  | joinWindowExpiry =>
    cases taken
    refine .unlessReset stays ?_
    split
    next started _ =>
      have voted : VoteKept s (s.windowEnded started).revote := .of_revote rfl rfl id
      exact .ite voted (.trans voted (State.startSender_voteKept _))
    next => exact stays
  | levelIntervalExpiry =>
    simp only [exec, execLevelIntervalExpiry] at taken
    split at taken <;> cases taken
    exacts [.unlessReset stays (.ite .of_eq stays), stays]
  | refreshTimerExpiry =>
    simp only [exec, execRefreshTimerExpiry] at taken
    split at taken <;> cases taken
    exacts [.unlessReset stays .of_eq, stays]
  | staleDeadline index =>
    simp only [exec, execStaleDeadline] at taken
    split at taken
    · split at taken <;> cases taken
      · exact stays
      · refine .ite ?_ ?_ <;> split <;> exact .of_eq
    · cases taken; exact stays
  | carrierStart => cases taken; exact .ite .of_eq .of_eq
  | gapEnd =>
    simp only [exec, execGapEnd] at taken
    split at taken <;> cases taken
    exacts [.ite .of_eq .of_eq, stays]
  | echoCheck heard =>
    simp only [exec, execEchoCheck] at taken
    split at taken
    · split at taken <;> cases taken
      exacts [.of_eq, .ite (.trans .of_eq (State.enterFault_voteKept _)) .of_eq]
    · cases taken; exact stays
  | collision bit =>
    simp only [exec, execCollision] at taken
    split at taken
    · split at taken <;> cases taken
      exacts [.of_eq, stays]
    · cases taken; exact stays
  | jamEnd =>
    simp only [exec, execJamEnd] at taken
    split at taken <;> cases taken
    exacts [.ite .of_eq .of_eq, stays]
  | backoffWaitEnd =>
    simp only [exec, execBackoffWaitEnd] at taken
    split at taken <;> cases taken
    exacts [.ite .of_eq .of_eq, stays]
  | attemptCompletes =>
    simp only [exec, execAttemptCompletes] at taken
    split at taken <;> cases taken
    exacts [.of_eq, stays]
  | leaveCompletion =>
    cases taken
    exact .unlessReset stays (.ite (.orHold _ stays s.completeLeave_voteKept) stays)
  | runEnd t bits => cases taken; exact .ite .of_eq .of_eq
  | applyBurst => cases taken; exact .unlessReset stays (.orHold _ stays s.applyOldest_voteKept)
  | rstNFall => cases taken; exact .of_eq (pins := nofun)

/-! ### The resets (R70, R164) -/

/-- The node and the vote as both resets leave them (R70). -/
theorem State.reset_laws {s : State} (halt : s.output = { ownRequest := resetMode s.haltLow, effective := resetMode s.haltLow })
    (node : s.node = {}) (monitor : s.monitor = {}) : s.OutputLaw ∧ s.VoteLaw := by
  have voted : s.RequestLaw := by
    simp only [State.RequestLaw, State.formOwnRequest, halt, node, monitor]
    cases s.haltLow <;> rfl
  refine ⟨⟨⟨?_, ?_, ?_⟩, ?_⟩, fun _ => voted, ?_⟩
  · rw [halt]; exact Nat.zero_le _
  · rw [halt]; nofun
  · rw [halt]; exact fun _ => rfl
  · rw [State.StageLaw, halt]; nofun
  · rw [halt]

theorem exec_powerOnReset_laws {s u : State} {t : Nat} (taken : exec (.powerOnReset t) s = .next u) :
    u.OutputLaw ∧ u.VoteLaw := by
  cases taken
  exact State.reset_laws rfl rfl rfl

theorem exec_restart_laws {s u : State} {t : Nat} (taken : exec (.restart t) s = .next u) :
    (s.OutputLaw → u.OutputLaw) ∧ (s.VoteLaw → u.VoteLaw) := by
  cases taken
  rcases (s.advance t).command_cases ((s.advance t).restarted.answer .ok) with takes | ⟨port, refused⟩
  · obtain ⟨output, vote⟩ := State.reset_laws (s := (s.advance t).restarted.answer .ok) rfl rfl rfl
    rw [takes]
    exact ⟨fun _ => output, fun _ => vote⟩
  · rw [refused]
    have kept : VoteKept s { s.advance t with port } := .of_eq
    exact ⟨kept.output, kept.vote⟩

/-- A step keeps both laws: a reset by what it writes, every other command and the end of a pass by what it does. -/
theorem step_laws {s u : State} (taken : step s = .next u) :
    (s.OutputLaw → u.OutputLaw) ∧ (s.VoteLaw → u.VoteLaw) := by
  simp only [step] at taken
  split at taken
  next c rest waiting =>
    have started : VoteKept s { s with pending := rest } := .of_eq
    by_cases restart : ∃ t, c = .restart t
    · obtain ⟨t, rfl⟩ := restart
      obtain ⟨output, vote⟩ := exec_restart_laws taken
      exact ⟨output ∘ started.output, vote ∘ started.vote⟩
    by_cases reset : ∃ t, c = .powerOnReset t
    · obtain ⟨t, rfl⟩ := reset
      obtain ⟨output, vote⟩ := exec_powerOnReset_laws taken
      exact ⟨fun _ => output, fun _ => vote⟩
    have kept := started.trans (exec_voteKept (not_exists.1 restart) (not_exists.1 reset) taken)
    exact ⟨kept.output, kept.vote⟩
  next =>
    cases taken
    exact ⟨s.finishPass_voteKept.output, s.finishPass_voteKept.vote⟩

/-- Settles O4: a vote leaves the stage where the mode and the node state allow it, a factor step ends a ramp at its own factor, and
no other operation moves the stage or the factor. -/
theorem outputLawKept : Obligations.OutputLawKept := fun _ _ law taken => (step_laws taken).1 law

/-- Settles O5: whatever changes an input of the own request takes the vote before it ends, and the own request is one of
the voters. -/
theorem voteLawKept : Obligations.VoteLawKept := fun _ _ law taken => (step_laws taken).2 law

/-- Settles O6: no command but the resets clears the latch, and a latch that is set is an input of the own request. -/
theorem tripHoldsTheNodeParked : Obligations.TripHoldsTheNodeParked := by
  refine ⟨fun c s u no_restart no_reset set taken => (exec_voteKept no_restart no_reset taken).trip set,
    fun s output vote high set => ?_⟩
  obtain ⟨-, stage⟩ := output
  obtain ⟨request, bound⟩ := vote
  have own : s.output.ownRequest = .park := (request high).trans (State.formOwnRequest_park (.inr (.inl set)))
  have effective : s.output.effective = .park := Mode.park_of_le (own ▸ bound)
  have held : s.mayRise = false := by simp [State.mayRise, effective]
  refine ⟨own, effective, ?_⟩
  cases now : s.output.stage with
  | easing => exact .inl rfl
  | parked => exact .inr rfl
  | live => exact absurd (held.symm.trans (stage (.inl now))) nofun
  | rising => exact absurd (held.symm.trans (stage (.inr now))) nofun

end Sys2Proof.Machine
end

section
namespace Sys2Proof.Machine

/-! ### The trip latch sets (R64, R88) -/

/-- The records of the vote that the trip latch brings about at this factor: MODE_CHANGED to PARK, and STAGE_CHANGED where the stage
turns to EASING (R69, R71, R88). -/
def State.tripRecords (s : State) (factor : Nat) : List Record :=
  (if s.output.effective = .park then [] else [{
    kind := .modeChanged, count := s.merge.periodCount, detail := some 2, value := some (s.output.effective.code : Int) }]) ++
  (if s.output.stage = .live ∨ s.output.stage = .rising then [{
    kind := .stageChanged, count := s.merge.periodCount, detail := some 1, value := some (factor : Int) }] else [])

/-- The latch makes the own request and the effective mode PARK, turns the stage down, and lets the factor stand. -/
theorem State.setTrip_output (s : State) : s.setTrip.output.ownRequest = .park ∧ s.setTrip.output.effective = .park ∧
    s.setTrip.output.stage = s.output.stage.turned false ∧ s.setTrip.output.factor = s.output.factor := by
  let latched : State := { s with monitor := { s.monitor with trip := true } }
  obtain ⟨own, -, factor, -⟩ := latched.revote_output
  obtain ⟨-, effective⟩ := latched.revote_voted
  have park : latched.revote.output.ownRequest = .park := own.trans (State.formOwnRequest_park (.inr (.inl rfl)))
  have parked : latched.revote.output.effective = .park :=
    Mode.park_of_le (by rw [effective, ← park]; exact latched.revote.ownRequest_le)
  refine ⟨park, parked, ?_, factor⟩
  rw [State.setTrip, latched.revote_turned, parked]
  rfl

theorem State.setTrip_monitor (s : State) : s.setTrip.monitor = { s.monitor with trip := true } := by
  simp [State.setTrip]

theorem State.setTrip_events (s : State) : s.setTrip.events =
    (s.tripRecords s.output.factor).foldl EventUnit.offer s.events := by
  obtain ⟨-, effective, stage, factor⟩ := s.setTrip_output
  have raised : s.setTrip.events = ([] ++ State.voteRecords { s with monitor := { s.monitor with trip := true } }
      s.setTrip).foldl EventUnit.offer s.events := State.revote_raised _
  have mode : Mode.park = s.output.effective ↔ s.output.effective = .park := eq_comm
  rw [raised]
  simp only [State.voteRecords, State.tripRecords, effective, stage, factor, Stage.turned_down, mode, List.nil_append]
  cases s.output.stage <;> rfl

/-! ### The Excursion Monitor's hand-over (R83 to R86, R91) -/

/-- The record of an axis (R83, R84, R86). -/
def axisRecord (kind : EventKind) (count : Count) (value : Nat → Int) (a : Nat) : Record :=
  { kind, count, channel := some a, value := some (value a) }

theorem State.reportAxes_eq (kind : EventKind) (values : List Int) (which : List Nat) (s : State) :
    s.reportAxes kind values which = { s with events :=
      (which.map (axisRecord kind s.merge.periodCount (values.getD · 0))).foldl EventUnit.offer s.events } := by
  induction which generalizing s with
  | nil => rfl
  | cons a which ih => exact ih (s.report kind (channel := some a) (value := some (values.getD a 0)))

/-- The records of the flags and of the hard counts of a pass, in their order; with the latch set no HARD_TRIP. -/
def State.excursionRecords (s : State) (p : Pass) : List Record :=
  s.monitor.newWarns.map (axisRecord .warn s.merge.periodCount (p.outputs.getD · 0)) ++
  s.monitor.newClips.map (axisRecord .clip s.merge.periodCount (p.pres.getD · 0)) ++
  if s.monitor.trip then [] else
    (s.hardTrips p).map (axisRecord .hardTrip s.merge.periodCount (p.demands.getD · 0))

/-- The pass sets the latch. -/
def State.trips (s : State) (p : Pass) : Bool := !(s.monitor.trip || (s.hardTrips p).isEmpty)

/-- The hard counts taken and the records raised, before the latch. -/
def State.excursionsTaken (s : State) (p : Pass) : State := { s with
  events := (s.excursionRecords p).foldl EventUnit.offer s.events
  monitor := { s.monitor with axes := axisNumbers.map (s.countedAxis p) } }

theorem State.monitorPass_eq (s : State) (p : Pass) :
    s.monitorPass p = if s.trips p then (s.excursionsTaken p).setTrip else s.excursionsTaken p := by
  simp only [State.monitorPass, State.reportAxes_eq, State.trips, State.excursionsTaken, State.excursionRecords,
    List.foldl_append]
  cases set : s.monitor.trip with
  | true => rfl
  | false => cases trips : s.hardTrips p <;> rfl

/-- What the hand-over leaves of the monitor and raises. -/
theorem State.monitorPass_ends (s : State) (p : Pass) :
    (s.monitorPass p).monitor = {
      axes := axisNumbers.map (s.countedAxis p), trip := s.monitor.trip || s.trips p } ∧
    (s.monitorPass p).events = (s.excursionRecords p ++ if s.trips p then s.tripRecords s.output.factor else []).foldl
      EventUnit.offer s.events ∧
    (s.trips p = false → (s.monitorPass p).output = s.output) ∧
    (s.trips p = true → (s.monitorPass p).output.effective = .park ∧
      (s.monitorPass p).output.stage = s.output.stage.turned false ∧ (s.monitorPass p).output.factor = s.output.factor) := by
  rw [State.monitorPass_eq]
  cases trips : s.trips p with
  | false =>
    simp only [Bool.false_eq_true, if_false, Bool.or_false, List.append_nil]
    exact ⟨rfl, rfl, fun _ => rfl, nofun⟩
  | true =>
    obtain ⟨-, effective, stage, factor⟩ := (s.excursionsTaken p).setTrip_output
    simp only [if_true, Bool.or_true, List.foldl_append]
    exact ⟨State.setTrip_monitor _, State.setTrip_events _, nofun, fun _ => ⟨effective, stage, factor⟩⟩

/-- The Excursion Monitor's hand-over reads the monitor, the settings and the count, so a factor step before it changes nothing. -/
theorem State.stepFactor_excursions (s : State) (p : Pass) : s.stepFactor.trips p = s.trips p ∧
    s.stepFactor.excursionRecords p = s.excursionRecords p ∧ s.stepFactor.countedAxis p = s.countedAxis p := by
  have counted : s.stepFactor.countedAxis p = s.countedAxis p := by funext a; simp [State.countedAxis]
  have trips : s.stepFactor.hardTrips p = s.hardTrips p := by simp [State.hardTrips, counted]
  exact ⟨by simp [State.trips, trips], by simp [State.excursionRecords, trips], counted⟩

end Sys2Proof.Machine
end

section
namespace Sys2Proof.Machine

/-! ### The two hand-overs of a pass (R56, R64) -/

/-- Whichever hand-over is first, the monitor ends with its counts taken, and with the latch where a count has tripped. -/
theorem State.handOver_monitor (s : State) (p : Pass) : (s.handOver p).monitor = {
    axes := axisNumbers.map (s.countedAxis p), trip := s.monitor.trip || s.trips p } := by
  cases order : p.order <;> simp only [State.handOver, order]
  · obtain ⟨trips, -, counted⟩ := s.stepFactor_excursions p
    rw [(s.stepFactor.monitorPass_ends p).1, trips, counted]
    simp
  · rw [← (s.monitorPass_ends p).1]
    simp

theorem State.handOver_trips_iff (s : State) (p : Pass) :
    ((s.handOver p).monitor.trip = true ∧ s.monitor.trip = false ↔ s.trips p = true) ∧
    ((s.handOver p).monitor.trip = s.monitor.trip ↔ s.trips p = false) := by
  rw [State.handOver_monitor]
  cases set : s.monitor.trip <;> cases trips : s.trips p <;> simp [State.trips, set] at trips ⊢

/-- A factor step turns no stage down and lets no stage rise. -/
theorem State.stepped_rises (s : State) :
    s.stepped.1 = .live ∨ s.stepped.1 = .rising ↔ s.output.stage = .live ∨ s.output.stage = .rising := by
  simp only [State.stepped]
  cases s.output.stage with
  | live | parked => simp
  | easing | rising => dsimp only; split <;> simp

theorem State.stepFactor_tripRecords (s : State) (factor : Nat) : s.stepFactor.tripRecords factor = s.tripRecords factor := by
  obtain ⟨output, -⟩ := s.stepFactor_ends
  simp only [State.tripRecords, output, State.stepped_rises, State.stepFactor_frame]

section
variable {s : State} {p : Pass}

theorem State.handOver_stepFirst (first : p.order = .stepFirst) :
    (s.handOver p).events = (s.rampRecords ++ s.excursionRecords p ++
      if s.trips p then s.tripRecords s.stepped.2 else []).foldl EventUnit.offer s.events ∧
    (s.handOver p).output.factor = s.stepped.2 ∧
    (s.handOver p).output.stage = if s.trips p then s.stepped.1.turned false else s.stepped.1 := by
  obtain ⟨trips, records, -⟩ := s.stepFactor_excursions p
  obtain ⟨output, events⟩ := s.stepFactor_ends
  obtain ⟨-, raised, stays, tripped⟩ := s.stepFactor.monitorPass_ends p
  simp only [State.handOver, first]
  rw [trips] at raised stays tripped
  rw [State.stepFactor_tripRecords, output] at raised
  refine ⟨by rw [raised, records, events, ← List.foldl_append, List.append_assoc], ?_⟩
  cases trip : s.trips p with
  | false => rw [stays trip, output]; exact ⟨rfl, rfl⟩
  | true =>
    obtain ⟨-, stage, factor⟩ := tripped trip
    rw [factor, stage, output]
    exact ⟨rfl, rfl⟩

theorem State.handOver_monitorFirst (first : p.order = .monitorFirst) :
    (s.handOver p).events = (s.excursionRecords p ++ (if s.trips p then s.tripRecords s.output.factor else []) ++
      (s.monitorPass p).rampRecords).foldl EventUnit.offer s.events ∧
    (s.handOver p).output.stage = (s.monitorPass p).stepped.1 ∧
    (s.handOver p).output.factor = (s.monitorPass p).stepped.2 := by
  obtain ⟨-, raised, -, -⟩ := s.monitorPass_ends p
  obtain ⟨output, events⟩ := (s.monitorPass p).stepFactor_ends
  simp only [State.handOver, first]
  rw [events, raised, output, ← List.foldl_append]
  exact ⟨rfl, rfl, rfl⟩

/-- Without a trip the monitor's hand-over leaves the factor step as it was. -/
theorem State.monitorPass_untripped (trips : s.trips p = false) :
    (s.monitorPass p).stepped = s.stepped ∧ (s.monitorPass p).rampRecords = s.rampRecords := by
  rw [State.monitorPass_eq, trips]
  exact ⟨rfl, rfl⟩

/-- After a trip the factor step is a park step, and a stage at rest takes none. -/
theorem State.monitorPass_tripped (trips : s.trips p = true) :
    (s.monitorPass p).stepped = (if s.output.stage = .parked then (.parked, s.output.factor)
      else if s.output.factor ≤ s.cfg.parkStep then (.parked, 0) else (.easing, s.output.factor - s.cfg.parkStep)) ∧
    (s.monitorPass p).rampRecords = (if (s.monitorPass p).stepped.1 = .parked ∧ s.output.stage ≠ .parked then
      [{ kind := .stageChanged, count := s.merge.periodCount, detail := some 2, value := some 0 }] else []) := by
  obtain ⟨-, -, -, tripped⟩ := s.monitorPass_ends p
  obtain ⟨effective, stage, factor⟩ := tripped trips
  simp only [State.stepped, State.rampRecords, State.easeBy, effective, stage, factor, State.monitorPass_frame, if_true]
  cases s.output.stage with
  | parked => simp [Stage.turned]
  | live | easing | rising => by_cases within : s.output.factor ≤ s.cfg.parkStep <;> simp [Stage.turned, within]

end

/-! ### The records of a pass (R83, R84, R86) -/

/-- The monitor of an axis as the pass is published: its flags are settled, with the flags before kept as the previous ones. -/
theorem State.passPublished_monitor (s : State) (o : HandOverOrder) {a : Nat} (axis : a < 8) :
    ∃ result, (s.passPublished o).monitor.axes.getD a {} =
      (s.monitor.axes.getD a {}).settle (s.cfg.axes.getD a {}) result := by
  have axes : (s.passPublished o).monitor.axes = _ := s.beginPass_monitors o
  rw [axes, getD_axisNumbers _ _ axis]
  exact ⟨_, rfl⟩

theorem filter_map_congr {α β : Type} {l : List α} {p q : α → Bool} {f g : α → β} (same : ∀ a ∈ l, p a = q a)
    (maps : ∀ a ∈ l, f a = g a) : (l.filter p).map f = (l.filter q).map g := by
  rw [List.filter_congr same]
  exact List.map_congr_left fun a mem => maps a (List.mem_filter.1 mem).1

/-- The records of the flags and of the hard counts, read off the monitors before and after the pass. -/
theorem State.passPublished_excursions (s : State) (o : HandOverOrder) :
    let t := s.passPublished o
    let was := fun a => s.monitor.axes.getD a {}
    let is_ := t.countedAxis (s.passBegun o)
    let axis := fun a => s.cfg.axes.getD a {}
    t.excursionRecords (s.passBegun o) =
      ((List.range 8).filter fun a => (is_ a).warn && !(was a).warn).map
        (axisRecord .warn t.merge.periodCount fun a => t.merge.frame.outputs.getD a 0) ++
      ((List.range 8).filter fun a => (is_ a).clip && !(was a).clip).map
        (axisRecord .clip t.merge.periodCount fun a => roundDiv (t.merge.limited.getD a 0 * s.output.factor) 4096) ++
      ((List.range 8).filter fun a => !s.monitor.trip && decide ((was a).hardCount < (axis a).hardCount) &&
          decide ((is_ a).hardCount = (axis a).hardCount)).map
        (axisRecord .hardTrip t.merge.periodCount fun a => (axis a).demand t.merge.lastChannels.values) := by
  dsimp only
  have trip : (s.passPublished o).monitor.trip = s.monitor.trip := rfl
  have eight {a : Nat} (mem : a ∈ List.range 8) : a < 8 := List.mem_range.1 mem
  simp only [State.excursionRecords, trip]
  refine congrArg₂ (· ++ ·) (congrArg₂ (· ++ ·) ?_ ?_) ?_
  · refine filter_map_congr (fun a mem => ?_) fun a _ => rfl
    obtain ⟨result, settled⟩ := s.passPublished_monitor o (eight mem)
    simp only [State.countedAxis, AxisMonitor.count, settled]; rfl
  · refine filter_map_congr (fun a mem => ?_) fun a mem => ?_
    · obtain ⟨result, settled⟩ := s.passPublished_monitor o (eight mem)
      simp only [State.countedAxis, AxisMonitor.count, settled]; rfl
    · obtain ⟨limited, -, -⟩ := s.passPublished_axis o (eight mem)
      simp only [axisRecord, limited]
      rw [State.passBegun, getD_map_axisNumbers _ _ _ (eight mem)]; rfl
  · cases s.monitor.trip with
    | true => simp
    | false =>
      refine filter_map_congr (fun a mem => ?_) fun a mem => ?_
      · obtain ⟨result, settled⟩ := s.passPublished_monitor o (eight mem)
        simp only [hardTripped, settled, Bool.decide_and, Bool.and_comm, Bool.not_false, Bool.true_and]; rfl
      · simp only [axisRecord]
        rw [State.passBegun, getD_map_axisNumbers _ _ _ (eight mem)]; rfl

/-- Settles O23: each hand-over raises its own records, and the latch those of its vote. -/
theorem passRecords : Obligations.PassRecords := by
  intro s o high between
  refine ⟨_, exec_wholePass o high between, ?_⟩
  intro was is_ axis raise records vote tripped turns down rampEnds mode
  have merge : ((s.passPublished o).handOver (s.passBegun o)).merge = (s.passPublished o).merge := by simp
  have taken : records = (s.passPublished o).excursionRecords (s.passBegun o) := by
    have counted {a : Nat} (mem : a ∈ List.range 8) : is_ a = (s.passPublished o).countedAxis (s.passBegun o) a := by
      simp only [is_, State.handOver_monitor]
      exact getD_axisNumbers _ _ (List.mem_range.1 mem)
    rw [s.passPublished_excursions o, ← merge]
    refine congrArg₂ (· ++ ·) (congrArg₂ (· ++ ·) ?_ ?_) ?_ <;>
      exact filter_map_congr (fun a mem => by rw [counted mem]) fun a _ => rfl
  have latched (factor : Nat) : (s.passPublished o).tripRecords factor =
      mode ++ (if turns then [vote .stageChanged 1 factor] else []) := by
    simp only [mode, vote, merge]; rfl
  have ramp : (s.passPublished o).rampRecords = rampEnds := by
    simp only [rampEnds, vote, merge]; rfl
  have latch : tripped ↔ (s.passPublished o).trips (s.passBegun o) = true :=
    ((s.passPublished o).handOver_trips_iff (s.passBegun o)).1
  refine ⟨fun first => ?_, fun first => ?_⟩
  · obtain ⟨events, factor, -⟩ := State.handOver_stepFirst (s := s.passPublished o) (p := s.passBegun o) first
    rw [events, ramp, ← taken, latched, factor]
    simp only [latch]
    rfl
  · obtain ⟨events, stage, -⟩ := State.handOver_monitorFirst (s := s.passPublished o) (p := s.passBegun o) first
    rw [events, ← taken, latched, stage, List.append_assoc]
    refine congrArg (fun raised => (records ++ raised).foldl EventUnit.offer s.events) ?_
    simp only [latch]
    cases trips : (s.passPublished o).trips (s.passBegun o) with
    | false =>
      obtain ⟨-, same⟩ := State.monitorPass_untripped trips
      rw [same, ramp]; rfl
    | true =>
      obtain ⟨-, last⟩ := State.monitorPass_tripped trips
      simp only [if_true, last, vote, merge]; rfl

/-- Settles O24: the branches of the factor step, and the step of a pass before or after the turn a trip brings about. -/
theorem factorStep : Obligations.FactorStep := by
  refine ⟨fun s => ⟨State.stepFactor_rests, fun stage down amount => ?_, fun stage =>
    ⟨State.stepFactor_rises stage, State.stepFactor_arrives stage⟩⟩, fun s o high between => ?_⟩
  · subst amount
    exact ⟨State.stepFactor_eases stage, State.stepFactor_parks stage⟩
  · refine ⟨_, exec_wholePass o high between, ?_⟩
    intro down stepped
    have step : (s.passPublished o).stepped = stepped := rfl
    obtain ⟨-, untripped⟩ := (s.passPublished o).handOver_trips_iff (s.passBegun o)
    have latch : (s.passPublished o).monitor.trip = s.monitor.trip := rfl
    rw [← latch, Ne, untripped, Bool.not_eq_false, ← step]
    cases o with
    | stepFirst =>
      obtain ⟨-, factor, stage⟩ := State.handOver_stepFirst (s := s.passPublished .stepFirst) (p := s.passBegun .stepFirst) rfl
      rw [factor, stage]
      refine ⟨fun trips => ?_, fun trips _ => ?_, nofun⟩
      · rw [trips]; exact ⟨rfl, rfl⟩
      · rw [trips]
        exact ⟨rfl, by cases (s.passPublished .stepFirst).stepped.1 <;> rfl⟩
    | monitorFirst =>
      obtain ⟨-, stage, factor⟩ :=
        State.handOver_monitorFirst (s := s.passPublished .monitorFirst) (p := s.passBegun .monitorFirst) rfl
      rw [factor, stage]
      refine ⟨fun trips => ?_, nofun, fun trips _ => ?_⟩
      · obtain ⟨same, -⟩ := State.monitorPass_untripped trips
        rw [same]; exact ⟨rfl, rfl⟩
      · obtain ⟨turned, -⟩ := State.monitorPass_tripped trips
        have output : (s.passPublished .monitorFirst).output = s.output := rfl
        have cfg : (s.passPublished .monitorFirst).cfg = s.cfg := rfl
        rw [turned, output, cfg]
        refine ⟨fun rests => ?_, fun runs within => ?_, fun runs above => ?_⟩
        · rw [if_pos rests]; exact ⟨rfl, rfl⟩
        · rw [if_neg runs, if_pos within]; exact ⟨rfl, rfl⟩
        · rw [if_neg runs, if_neg (Nat.not_le.2 above)]; exact ⟨rfl, rfl⟩

end Sys2Proof.Machine
end

section
namespace Sys2Proof.Machine

/-! ### HALT_N and ASK MODE (R61 to R63, R65) -/

theorem Mode.ofCode_code (m : Mode) : Mode.ofCode m.code = some m := by cases m <;> rfl

theorem Mode.ofCode_eq_none {n : Nat} (above : 2 < n) : Mode.ofCode n = none := by
  match n with
  | n + 3 => rfl

/-- The node as an input of the own request from outside leaves it for the vote: at this instant, with this level of HALT_N and this
local request. -/
def State.withInputs (s : State) (now : Nat) (haltLow : Bool) (localRequest : Mode) : State :=
  { s with now, haltLow, output := { s.output with localRequest } }

theorem exec_haltNChange {s : State} (t : Nat) {low : Bool} (high : s.inReset = false) (changes : low ≠ s.haltLow) :
    exec (.haltNChange t low) s = .next (s.withInputs (max s.now t) low s.output.localRequest).revote := by
  simp only [exec, execHaltNChange, State.advance_frame, if_neg changes]
  exact congrArg Host.Outcome.next (State.unlessReset_high high)

theorem exec_askMode {s : State} (t : Nat) {code : Byte} (port : s.Open) :
    (∀ m : Mode, m.code = code.toNat →
      exec (.askMode t code) s = .next ((s.withInputs (max s.now t) s.haltLow m).revote.answer .ok)) ∧
    (2 < code.toNat → exec (.askMode t code) s = .next ((s.advance t).answer .param)) := by
  have port : (s.advance t).Open := port
  simp only [exec, execAskMode, State.command_open port]
  exact ⟨fun m named => by rw [← named, m.ofCode_code]; rfl, fun above => by rw [Mode.ofCode_eq_none above]⟩

/-- What the vote makes of such an input: it is taken at once, with its records, and the Level Sender is told. -/
theorem State.withInputs_ends (s : State) (now : Nat) (low : Bool) (m : Mode) :
    let u := (s.withInputs now low m).revote
    u.output.localRequest = m ∧ m.code ≤ u.output.ownRequest.code ∧
    (low = true → u.output.ownRequest = .park ∧ u.output.effective = .park) ∧ u.Voted ∧
    (u.output.stage = .live ∨ u.output.stage = .rising ↔ u.output.effective = .live ∧ s.node.state = .active) ∧
    u.output.factor = s.output.factor ∧ s.Raised u [] ∧ s.RequestTold u ∧
    u.sender = { s.sender with pending := u.sender.pending } ∧
    u = { s with now, haltLow := low, output := u.output, tx := u.tx, line := u.line, announce := u.announce,
                 sender := u.sender, events := u.events } := by
  obtain ⟨own, asked, factor, -⟩ := (s.withInputs now low m).revote_output
  have voted := (s.withInputs now low m).revote_voted
  refine ⟨asked, ?_, fun halted => ?_, voted, State.revote_stage _, factor, ?_, ?_, State.revote_sender _, ?_⟩
  · rw [own]; exact State.localRequest_le (s.withInputs now low m)
  · have park : (s.withInputs now low m).revote.output.ownRequest = .park :=
      own.trans (State.formOwnRequest_park (.inl halted))
    refine ⟨park, Mode.park_of_le ?_⟩
    rw [voted.2, ← park]
    exact State.ownRequest_le _
  · exact (State.revote_raised _).after_records rfl rfl rfl rfl
  · exact (State.revote_told (s.withInputs now low m)).congr rfl rfl rfl rfl rfl rfl rfl rfl
  · apply State.eq_of_fields <;> simp [State.withInputs]

/-- Settles O29: both commands set their input and take the vote; a code that names no mode is answered alone. -/
theorem haltAndAskModeActOnTheVote : Obligations.HaltAndAskModeActOnTheVote := by
  refine ⟨fun s t low high changes => ?_, fun s t code port => ?_⟩
  · obtain ⟨asked, -, parks, voted, stage, factor, raised, told, sender, frame⟩ :=
      s.withInputs_ends (max s.now t) low s.output.localRequest
    refine ⟨_, exec_haltNChange t high changes, ?_⟩
    generalize (s.withInputs (max s.now t) low s.output.localRequest).revote = u at *
    have now : u.now = max s.now t := congrArg State.now frame
    have halt : u.haltLow = low := congrArg State.haltLow frame
    refine ⟨halt, now, parks, voted, stage, asked, factor, raised, told, sender, ?_⟩
    rw [now, halt]
    exact frame
  · obtain ⟨taken, refused⟩ := exec_askMode t (code := code) port
    refine ⟨fun m named => ?_, fun above => refused above⟩
    obtain ⟨asked, bound, -, voted, stage, factor, raised, told, sender, frame⟩ :=
      s.withInputs_ends (max s.now t) s.haltLow m
    refine ⟨_, taken m named, ?_⟩
    generalize (s.withInputs (max s.now t) s.haltLow m).revote = u at *
    have port_kept : u.port = s.port := by rw [frame]
    refine ⟨asked, bound, State.answer_voted voted _ _, stage, factor, raised.answer _ _, told.congr, sender, ?_, ?_⟩
    · rw [State.answer_port, port_kept]; rfl
    · rw [State.answer_port, port_kept]
      exact congrArg (State.answer · .ok) frame

/-! ### The join window ends (R71, R112, R131) -/

theorem exec_joinWindowExpiry {s : State} {started : Nat} (high : s.inReset = false) (window : s.node.window = some started) :
    (s.cfg.station ≠ 0 → exec .joinWindowExpiry s = .next (s.windowEnded started).revote.startSender) ∧
    (s.cfg.station = 0 → exec .joinWindowExpiry s = .next (s.windowEnded started).revote) := by
  have ended : exec .joinWindowExpiry s = .next (if (s.windowEnded started).revote.listener then
      (s.windowEnded started).revote else (s.windowEnded started).revote.startSender) := by
    simp only [exec, execJoinWindowExpiry, State.unlessReset_high high, window]
    rfl
  have listens : (s.windowEnded started).revote.listener = (s.cfg.station == 0) := by
    simp [State.listener, State.windowEnded]
  rw [ended, listens]
  exact ⟨fun talks => by simp [talks], fun listening => by simp [listening]⟩

/-- The vote at the end of the join window. -/
theorem State.windowEnded_ends {s : State} (started : Nat) (silent : s.sender.state = .silent) :
    let u := (s.windowEnded started).revote
    u.Voted ∧ u.output.factor = s.output.factor ∧
    (u.output.effective = .live ↔ u.output.stage = .live ∨ u.output.stage = .rising) ∧
    (u.tx = s.tx ∧ u.line = s.line ∧ u.announce = s.announce ∧ u.sender = s.sender) ∧
    s.Raised u [{ kind := .nodeState, count := s.merge.periodCount, detail := some 2,
                  value := some (s.node.state.code : Int) }] ∧
    u = { s with now := max s.now (started + 10000 * s.cfg.timing.silence)
                 node := { s.node with state := .active, window := none }, output := u.output, events := u.events } := by
  have quiet := State.revote_silent (s := s.windowEnded started) silent
  have ⟨tx, line, announce, sender⟩ := quiet
  obtain ⟨-, -, factor, -⟩ := (s.windowEnded started).revote_output
  have stage := (s.windowEnded started).revote_stage
  refine ⟨State.revote_voted _, factor, ?_, quiet, (State.revote_raised _).after_records rfl rfl rfl rfl, ?_⟩
  · rw [stage]; exact (and_iff_left rfl).symm
  · rw [← ms_eq]
    apply State.eq_of_fields <;> simp [tx, line, announce, sender] <;> simp [State.windowEnded]

/-- The Level Sender begins as CHANGING with its timers running (R131). -/
theorem State.startSender_sender (s : State) : s.startSender.sender = { s.sender with
    state := .changing, unchanged := 0, levelTimer := some 0, refresh := some s.startSender.now
    pending := s.startSender.sender.pending } := by
  have now : s.startSender.now = s.now := by simp
  rw [now]
  exact State.queueLevel_sender _ _

/-- The Level Sender begins with a LEVEL (R131). -/
theorem State.startSender_asked {s r : State} (tx : r.tx = s.tx) (line : r.line = s.line) (announce : r.announce = s.announce)
    (cfg : r.cfg = s.cfg) (sender : r.sender = s.sender) : s.LevelAsked r.startSender false := by
  have posted : r.sender.posted = s.sender.posted := by rw [sender]
  have pending : r.sender.pending = s.sender.pending := by rw [sender]
  exact State.queueLevel_asked false tx (State.levelPairs_congr cfg posted) pending line announce

/-- Settles O48: the vote is taken on an ACTIVE node whose Level Sender is SILENT, and the Level Sender of a talking node
then begins. -/
theorem joinWindowEnds : Obligations.JoinWindowEnds := by
  intro s started high window silent
  obtain ⟨talking, listening⟩ := exec_joinWindowExpiry high window
  obtain ⟨voted, factor, stage, ⟨tx, line, announce, sender⟩, raised, frame⟩ := State.windowEnded_ends started silent
  generalize (s.windowEnded started).revote = r at *
  have now : r.now = max s.now (started + 10000 * s.cfg.timing.silence) := congrArg State.now frame
  have node : r.node = { s.node with state := .active, window := none } := congrArg State.node frame
  by_cases talks : s.cfg.station = 0
  · refine ⟨r, listening talks, now, node, voted, factor, stage, fun other => absurd talks other,
      fun _ => ⟨sender, tx, line, announce⟩, raised, ?_⟩
    rw [now, node, tx, line, announce, sender]
    exact frame
  · have node_u : r.startSender.node = r.node := by simp
    have output : r.startSender.output = r.output := by simp
    have events : r.startSender.events = r.events := by simp
    refine ⟨r.startSender, talking talks, ?_, node_u.trans node, ?_, ?_, ?_, fun _ => ⟨?_, ?_⟩,
      fun listens => absurd listens talks, raised.congr events output, ?_⟩
    · rw [← now]; simp
    · exact State.voted_congr voted (by simp) output (by simp) (by simp) (by simp) (by simp)
    · rw [output]; exact factor
    · rw [output]; exact stage
    · rw [← sender]; exact r.startSender_sender
    · exact State.startSender_asked tx line announce (by rw [frame]) sender
    · apply State.eq_of_fields <;> simp
      all_goals rw [frame]

/-! ### The pages of a peer's announce group (R96, R98, R99) -/

/-- The header steps of a page record its request and its gaps, and renew the sequence and the silence timer of a peer that is heard
(R96). -/
theorem PeerRecord.page_headed {b : Burst} (page : b.payload.kind = 1) (now : Nat) (p : PeerRecord) :
    (p.returned b now).header b now = { p with
      lastRequest := some b.request
      gaps := match p.expected with
        | some e => if p.link = .absent then p.gaps else min 65535 (p.gaps + (b.seq + 256 - e) % 256)
        | none => p.gaps
      expected := if p.link = .present ∨ p.link = .holding then some ((b.seq + 1) % 256) else p.expected
      silence := if p.link = .present ∨ p.link = .holding then some now else p.silence } := by
  have stays : b.payload.returns = false ∧ b.payload.isLevel = false := by
    cases h : b.payload <;> rw [h] at page
    case page0 | page => exact ⟨rfl, rfl⟩
    all_goals cases page
  simp only [PeerRecord.returned, PeerRecord.header, stays, satAdd, seqGap, Config.counterMax, ← Link.heard_iff,
    Bool.false_eq_true, and_false, if_false]
  cases heard : p.link.heard <;> rfl

/-- A burst's header steps, and then this assembly in its sender's row (R96, R99). -/
def State.gathered (s : State) (b : Burst) (assembly : Option Assembly) : State :=
  (s.headerSteps b).mapPeer b.source fun p => { p with assembly }

/-- The tables after a page that completes no group: the row of its sender, as the header steps and the page leave it. -/
theorem State.pageGathered_tables {s : State} {b : Burst} (page : b.payload.kind = 1) (assembly : Option Assembly)
    (size : s.peers.length = 15) (first : 1 ≤ b.source) (last : b.source ≤ 15) :
    let u := s.gathered b assembly
    let p := s.peerAt b.source
    u.peerAt b.source = { p with
      lastRequest := some b.request
      gaps := match p.expected with
        | some e => if p.link = .absent then p.gaps else min 65535 (p.gaps + (b.seq + 256 - e) % 256)
        | none => p.gaps
      expected := if p.link = .present ∨ p.link = .holding then some ((b.seq + 1) % 256) else p.expected
      silence := if p.link = .present ∨ p.link = .holding then some s.now else p.silence
      assembly } ∧
    (∀ y, y ≠ b.source → u.peerAt y = s.peerAt y) ∧ u.events = s.events ∧ u = { s with peers := u.peers } := by
  obtain ⟨headed, others, size_h, -⟩ := s.headerSteps_peers b size first last
  obtain ⟨-, events⟩ := State.page_headerSteps page size first last
  obtain ⟨own_row, other_rows⟩ :=
    (s.headerSteps b).mapPeer_at b.source (fun p => { p with assembly }) size_h first last
  dsimp only
  refine ⟨own_row.trans (by rw [headed, PeerRecord.page_headed page]),
    fun y other => (other_rows y other).trans (others y other), by simp [State.gathered, events], ?_⟩
  apply State.eq_of_fields <;> simp [State.gathered, events]

/-- A page's header steps leave the assembly of its sender to its contents. -/
theorem State.page_assembly {s : State} {b : Burst} (page : b.payload.kind = 1) (size : s.peers.length = 15)
    (first : 1 ≤ b.source) (last : b.source ≤ 15) :
    ((s.headerSteps b).peerAt b.source).assembly = (s.peerAt b.source).assembly := by
  obtain ⟨headed, -⟩ := s.headerSteps_peers b size first last
  rw [headed, PeerRecord.page_headed page]

/-- A continuation page adds its declarations to the assembly that expects it, short of the last page. -/
theorem State.applyPage_expected {s : State} {x : Nat} {a : Assembly} (decls : List Declaration)
    (gathering : (s.peerAt x).assembly = some a) (more : a.next + 1 ≠ a.expected) : s.applyPage x a.next a.expected decls =
      s.mapPeer x fun p => { p with assembly := some { a with decls := a.decls ++ decls, next := a.next + 1 } } := by
  simp only [State.applyPage, gathering, and_self, if_true, State.takeAssembly, if_neg more]

theorem State.applyPage_unexpected {s : State} {x index count : Nat} (decls : List Declaration)
    (unexpected : ∀ a, (s.peerAt x).assembly = some a → index ≠ a.next ∨ count ≠ a.expected) :
    s.applyPage x index count decls = s.dropPage x := by
  simp only [State.applyPage]
  split
  next a gathering => exact if_neg fun ⟨next, expected⟩ => (unexpected a gathering).elim (· next) (· expected)
  next => rfl

/-- How an event ends that has changed the peers' rows and the counters alone: with its records, and the vote (R69). -/
theorem State.pageGathered_ends {s a : State} {rest : List FifoEntry} {peers : List PeerRecord} {counters : Counters}
    {events : EventUnit} {records : List Record} (made : a = { s with fifo := rest, peers, counters, events })
    (raised : events = records.foldl EventUnit.offer s.events) :
    let u := a.revote
    u.fifo = rest ∧ u.peers = peers ∧ u.counters = counters ∧ u.Voted ∧ s.Raised u records ∧ s.RequestTold u ∧
    u.sender = { s.sender with pending := u.sender.pending } ∧
    u = { s with fifo := rest, line := u.line, peers := u.peers, announce := u.announce, output := u.output, tx := u.tx
                 sender := u.sender, counters := u.counters, events := u.events } := by
  subst made
  obtain ⟨raised, voted, told, sender⟩ :=
    State.revote_ends (s := s) (a := { s with fifo := rest, peers, counters, events }) raised
  refine ⟨by simp, by simp, by simp, voted, raised, told, sender, ?_⟩
  apply State.eq_of_fields <;> simp

/-- Settles O59: each page leaves its sender's row with an assembly or without one, with BAD_BURST where it was not expected, and the
vote is taken. -/
theorem pagesAreGathered : Obligations.PagesAreGathered := by
  intro s f rest high between size fifo heard first last other x p present comesTo
  have taken := exec_peerBurst high between fifo first heard other
  have ends (page : f.burst.payload.kind = 1) (assembly : Option Assembly) (bad : Bool)
      (contents : (State.headerSteps { s with fifo := rest } f.burst).applyContents f =
        if bad then (State.gathered { s with fifo := rest } f.burst assembly).reportBad .format (some x) none
        else State.gathered { s with fifo := rest } f.burst assembly) : comesTo assembly bad := by
    rw [contents] at taken
    obtain ⟨own_row, other_rows, events, frame⟩ :=
      State.pageGathered_tables (s := { s with fifo := rest }) page assembly size first last
    generalize State.gathered { s with fifo := rest } f.burst assembly = g at *
    have rows {u : State} (peers : u.peers = g.peers) (y : Nat) : u.peerAt y = g.peerAt y := State.peerAt_congr peers y
    cases bad with
    | false =>
      simp only [Bool.false_eq_true, if_false] at taken
      obtain ⟨fifo, peers, counters, voted, ends⟩ := State.pageGathered_ends (s := s) (a := g) (rest := rest) (peers := g.peers)
        (records := []) frame rfl
      exact ⟨_, taken, fifo, voted, (rows peers x).trans own_row, fun y other => (rows peers y).trans (other_rows y other),
        counters, ends⟩
    | true =>
      simp only [if_true] at taken
      obtain ⟨fifo, peers, counters, voted, ends⟩ := State.pageGathered_ends (s := s) (a := g.reportBad .format (some x) none)
        (rest := rest) (peers := g.peers)
        (counters := { s.counters with badBursts := min 65535 (s.counters.badBursts + 1) })
        (records := [{ kind := .badBurst, count := s.merge.periodCount, station := some x, detail := some 4 }])
        (by rw [frame]; rfl) rfl
      exact ⟨_, taken, fifo, voted, (rows peers x).trans own_row, fun y other => (rows peers y).trans (other_rows y other),
        counters, ends⟩
  refine ⟨fun count role known decls page0 several => ends (by rw [page0]; rfl) _ false ?_,
    fun decls a page gathering more => ends (by rw [page]; rfl) _ false ?_,
    fun index count decls page unexpected => ends (by rw [page]; rfl) _ true ?_⟩
  · simp only [State.applyContents, page0, State.takeAssembly, if_neg several.symm]
    simp only [Bool.false_eq_true, if_false, State.headerSteps_frame]
    rfl
  · have kept := (State.page_assembly (s := { s with fifo := rest }) (by rw [page]; rfl) size first last).trans gathering
    simp only [State.applyContents, page, State.applyPage_expected decls kept more]
    rfl
  · have kept := State.page_assembly (s := { s with fifo := rest }) (by rw [page]; rfl) size first last
    simp only [State.applyContents, page]
    rw [State.applyPage_unexpected decls (by rw [kept]; exact unexpected)]
    rfl

end Sys2Proof.Machine
end

section
/-! Proofs of the statements of 05_excursion_monitors_and_the_hard_trip.md. -/

namespace Sys2Proof.Machine

/-! ### The monitor of an axis (R82, R85, R86) -/

/-- The rows of R82: a flag that is clear sets at the warn level; a flag that is set stays down to the level less the hysteresis,
or, where the hysteresis takes up the whole level, until the output is 0. -/
theorem warnFlag_spec (level hysteresis : Nat) (before : Bool) (output : Int) :
    let after := warnFlag level hysteresis before output
    (level = 0 → after = false) ∧
    (0 < level → before = false → (after = true ↔ level ≤ output.natAbs)) ∧
    (before = true → hysteresis < level → (after = true ↔ level - hysteresis ≤ output.natAbs)) ∧
    (0 < level → before = true → level ≤ hysteresis → (after = true ↔ output ≠ 0)) := by
  refine ⟨fun off => if_pos off, fun on clear => ?_, fun set narrow => ?_, fun on set wide => ?_⟩
  · simp [warnFlag, on.ne', clear]
  · simp [warnFlag, Nat.ne_zero_of_lt narrow, set, narrow]
  · simp [warnFlag, on.ne', set, Nat.not_lt.2 wide]

/-- The rows of R85: the count is cleared in PARKED and by a demand within the limit, and a demand above the limit advances it as
far as its setting. -/
theorem hardCountAfter_spec (stage : Stage) (limit setting before : Nat) (demand : Int) :
    let after := hardCountAfter stage limit setting before demand
    (stage = .parked → after = 0) ∧
    (stage ≠ .parked → demand.natAbs ≤ limit → after = 0) ∧
    (stage ≠ .parked → limit < demand.natAbs → before < setting → after = before + 1) ∧
    (stage ≠ .parked → limit < demand.natAbs → before = setting → after = setting) ∧
    after ≤ setting := by
  refine ⟨fun parked => if_pos parked, fun runs within => ?_, fun runs above below => ?_, fun runs above reached => ?_, ?_⟩
  · simp [hardCountAfter, runs, within]
  · simp [hardCountAfter, runs, Nat.not_le.2 above, below]
  · simp [hardCountAfter, runs, Nat.not_le.2 above, reached]
  · dsimp only [hardCountAfter]; split_ifs <;> omega

/-- The monitor of an axis after a whole pass: its flags are settled on what the axis comes to with the channel values the pass
keeps, and its hard count is taken on that demand with the stage the pass begins with. -/
theorem State.wholePass_monitor (s : State) (o : HandOverOrder) {a : Nat} (axis : a < 8) :
    let u := (s.passPublished o).handOver (s.passBegun o)
    let config := s.cfg.axes.getD a {}
    let result := config.compute u.merge.lastChannels.values s.output.factor (s.merge.limited.getD a 0)
    u.monitor.axes.getD a {} = ((s.monitor.axes.getD a {}).settle config result).count s.output.stage config result.demand := by
  intro u config result
  have axes : (s.passPublished o).monitor.axes = _ := s.beginPass_monitors o
  have counted : u.monitor.axes.getD a {} = (s.passPublished o).countedAxis (s.passBegun o) a := by
    simp only [u, State.handOver_monitor]
    exact getD_axisNumbers _ _ axis
  have values : u.merge.lastChannels = (s.passPublished o).merge.lastChannels := by simp [u]
  rw [counted, State.countedAxis, axes, getD_axisNumbers _ _ axis]
  simp only [result, values]
  rw [State.passBegun, getD_map_axisNumbers _ _ _ axis]
  rfl

/-- The hand-overs leave the warn flag as the frame carries it, settled on the output of the frame. -/
theorem State.wholePass_warn (s : State) (o : HandOverOrder) {a : Nat} (axis : a < 8) :
    let u := (s.passPublished o).handOver (s.passBegun o)
    let config := s.cfg.axes.getD a {}
    let before := s.monitor.axes.getD a {}
    u.merge.frame.warns.getD a false = (u.monitor.axes.getD a {}).warn ∧
    (u.monitor.axes.getD a {}).warn = warnFlag config.warn config.hysteresis before.warn (u.merge.frame.outputs.getD a 0) ∧
    (u.monitor.axes.getD a {}).prevWarn = before.warn := by
  intro u config before
  have frame : u.merge = (s.passPublished o).merge := by simp [u]
  have warns : (s.passPublished o).merge.frame.warns = (s.beginPass o).monitor.axes.map (·.warn) := rfl
  obtain ⟨-, output, -⟩ := s.passPublished_axis o axis
  rw [s.wholePass_monitor o axis, frame, output, warns, State.beginPass_monitors, getD_map_axisNumbers _ _ _ axis]
  exact ⟨rfl, rfl, rfl⟩

/-- Settles O20: the hand-overs leave the settled flag of the frame, which follows the rows of R82. -/
theorem warnFlagAfterPass : Obligations.WarnFlag := by
  intro s o a high between axis
  refine ⟨_, exec_wholePass o high between, ?_⟩
  intro level hysteresis output before after
  obtain ⟨published, settled, previous⟩ := s.wholePass_warn o axis
  have flag : after = warnFlag level hysteresis before output := published.trans settled
  obtain ⟨off, sets, narrow, wide⟩ := warnFlag_spec level hysteresis before output
  rw [flag]
  exact ⟨off, sets, narrow, wide, settled, previous⟩

/-- Settles O21: the count the hand-overs leave follows the rows of R85 on the demand of the values the pass keeps. -/
theorem hardCount : Obligations.HardCount := by
  intro s o a high between axis
  refine ⟨_, exec_wholePass o high between, ?_⟩
  intro config demand before after
  have counted : after = hardCountAfter s.output.stage config.hardLimit config.hardCount before demand := by
    simp only [after, s.wholePass_monitor o axis]; rfl
  obtain ⟨parked, within, advances, stays, bound⟩ :=
    hardCountAfter_spec s.output.stage config.hardLimit config.hardCount before demand
  rw [counted]
  exact ⟨parked, within, advances, stays, fun _ => bound⟩

/-! ### The trip latch in a pass (R86, R88) -/

/-- With the latch clear a pass sets it exactly where some hard count becomes equal to its setting (R86). -/
theorem State.trips_iff {s : State} {p : Pass} (clear : s.monitor.trip = false) : s.trips p = true ↔
    ∃ a, a < 8 ∧ (s.monitor.axes.getD a {}).hardCount < (s.cfg.axes.getD a {}).hardCount ∧
      (s.countedAxis p a).hardCount = (s.cfg.axes.getD a {}).hardCount := by
  have some_axis : s.trips p = true ↔ ∃ a, a ∈ s.hardTrips p := by
    simp [State.trips, clear, List.eq_nil_iff_forall_not_mem]
  simp only [some_axis, State.hardTrips, hardTripped, axisNumbers, List.mem_filter, List.mem_range, decide_eq_true_eq,
    and_comm (a := _ = _)]

/-- A hand-over that trips leaves the own request and the effective mode PARK, in both orders: the factor step writes neither. -/
theorem State.handOver_park {s : State} {p : Pass} (trips : s.trips p = true) :
    (s.handOver p).output.ownRequest = .park ∧ (s.handOver p).output.effective = .park := by
  have park {t : State} (trips : t.trips p = true) :
      (t.monitorPass p).output.ownRequest = .park ∧ (t.monitorPass p).output.effective = .park := by
    obtain ⟨own, effective, -⟩ := (t.excursionsTaken p).setTrip_output
    rw [State.monitorPass_eq, if_pos trips]
    exact ⟨own, effective⟩
  cases order : p.order <;> simp only [State.handOver, order]
  · obtain ⟨same, -⟩ := s.stepFactor_excursions p
    exact park (same.trans trips)
  · obtain ⟨output, -⟩ := (s.monitorPass p).stepFactor_ends
    rw [output]
    exact park trips

/-- Settles O22: the hand-overs leave the latch of the Excursion Monitor, and the vote of a latch that sets gives PARK. -/
theorem hardTripSets : Obligations.HardTripSets := by
  intro s o high between clear
  refine ⟨_, exec_wholePass o high between, ?_⟩
  have published : (s.passPublished o).monitor.trip = false := clear
  have latch : ((s.passPublished o).handOver (s.passBegun o)).monitor.trip = (s.passPublished o).trips (s.passBegun o) := by
    rw [State.handOver_monitor, published, Bool.false_or]
  rw [latch]
  refine ⟨(State.trips_iff published).trans (exists_congr fun a => and_congr_right fun axis => ?_), State.handOver_park⟩
  obtain ⟨result, settled⟩ := s.passPublished_monitor o axis
  rw [settled, State.handOver_monitor, getD_axisNumbers _ _ axis]
  rfl

end Sys2Proof.Machine
end

section
/-! Proofs of the statements of 06_stations_and_the_peer_table.md. -/

namespace Sys2Proof.Machine

/-! ### The pages of one announce group (R97, R116, R117) -/

/-- Where a page stands in its group: its place, its number and how many pages there are; none for an entry that is no page. -/
def TxEntry.place (e : TxEntry) : Option (GroupPos × Nat × Nat) :=
  match e.body with
  | .page pos index count _ _ => some (pos, index, count)
  | _ => none

theorem TxEntry.place_eq_none (e : TxEntry) : e.place = none ↔ e.isPage = false := by
  cases body : e.body <;> simp [TxEntry.place, TxEntry.isPage, body]

theorem TxEntry.place_eq_some (e : TxEntry) (pos : GroupPos) (index count : Nat) :
    e.place = some (pos, index, count) ↔ ∃ known decls, e.body = .page pos index count known decls := by
  cases body : e.body <;> simp [TxEntry.place, body]

/-- The places of `n` pages in their order, the ones numbered from `first` on of a group of `count`. -/
def groupPlaces (first n count : Nat) : List (Option (GroupPos × Nat × Nat)) :=
  (List.range' first n).map fun i => some (groupPos count i, i, count)

/-- Pages of at most one group stand here, together and in their order. -/
def OneGroup (places : List (Option (GroupPos × Nat × Nat))) : Prop :=
  ∃ before first n count after, first + n ≤ count ∧ count ≤ 4 ∧
    places = List.replicate before none ++ groupPlaces first n count ++ List.replicate after none

theorem pagesFrom_iff (first count : Nat) (pages : List TxEntry) : pagesFrom first count pages ↔
    first + pages.length ≤ count ∧ count ≤ 4 ∧ pages.map TxEntry.place = groupPlaces first pages.length count := by
  refine and_congr_right fun _ => and_congr_right fun _ => ⟨fun body => List.ext_getElem? fun i => ?_,
    fun places i e at_i => ?_⟩
  · rcases Nat.lt_or_ge i pages.length with inside | outside
    · have page := (TxEntry.place_eq_some _ _ _ _).2 (body i pages[i] (List.getElem?_eq_getElem inside))
      simp [groupPlaces, inside, page]
    · simp [groupPlaces, outside]
  · have same := congrArg (·[i]?) places
    obtain ⟨inside, rfl⟩ := List.getElem?_eq_some_iff.1 at_i
    exact (TxEntry.place_eq_some _ _ _ _).1 (by simpa [groupPlaces, inside] using same)

theorem places_none_iff (l : List TxEntry) :
    l.map TxEntry.place = List.replicate l.length none ↔ ∀ e ∈ l, e.isPage = false := by
  simp [List.eq_replicate_iff, TxEntry.place_eq_none]

/-- The law's words for one group, as a fact about the places alone. -/
theorem oneGroup_iff (l : List TxEntry) : OneGroup (l.map TxEntry.place) ↔ ∃ before pages after first count,
    l = before ++ pages ++ after ∧ (∀ e ∈ before ++ after, e.isPage = false) ∧ pagesFrom first count pages := by
  constructor
  · rintro ⟨b, first, n, count, a, fits, few, split⟩
    obtain ⟨front, after, rfl, front_places, after_places⟩ := List.map_eq_append_iff.1 split
    obtain ⟨before, pages, rfl, before_places, page_places⟩ := List.map_eq_append_iff.1 front_places
    have size : pages.length = n := by simpa [groupPlaces] using congrArg List.length page_places
    have others (l : List TxEntry) (k : Nat) (h : l.map TxEntry.place = List.replicate k none) : ∀ e ∈ l, e.isPage = false := by
      intro e he
      exact e.place_eq_none.1 (List.eq_of_mem_replicate (h ▸ List.mem_map_of_mem he))
    refine ⟨before, pages, after, first, count, rfl, fun e he => ?_, (pagesFrom_iff _ _ _).2 ⟨by omega, few, ?_⟩⟩
    · rcases List.mem_append.1 he with he | he
      exacts [others _ _ before_places e he, others _ _ after_places e he]
    · rw [page_places, size]
  · rintro ⟨before, pages, after, first, count, rfl, others, group⟩
    obtain ⟨fits, few, places⟩ := (pagesFrom_iff _ _ _).1 group
    refine ⟨before.length, first, pages.length, count, after.length, fits, few, ?_⟩
    rw [List.map_append, List.map_append, places, (places_none_iff before).2 fun e he => others e (by simp [he]),
      (places_none_iff after).2 fun e he => others e (by simp [he])]

theorem OneGroup.of_none {places : List (Option (GroupPos × Nat × Nat))} (none_there : ∀ p ∈ places, p = none) :
    OneGroup places :=
  ⟨places.length, 0, 0, 0, 0, by omega, by omega, by simpa [groupPlaces] using List.eq_replicate_of_mem none_there⟩

theorem OneGroup.concat_none {places : List (Option (GroupPos × Nat × Nat))} (h : OneGroup places) :
    OneGroup (places ++ [none]) := by
  obtain ⟨before, first, n, count, after, fits, few, rfl⟩ := h
  exact ⟨before, first, n, count, after + 1, fits, few, by simp [List.replicate_succ']⟩

/-- A whole group joins behind entries that are no pages. -/
theorem OneGroup.append_group {places : List (Option (GroupPos × Nat × Nat))} (none_there : ∀ p ∈ places, p = none)
    {n : Nat} (few : n ≤ 4) : OneGroup (places ++ groupPlaces 0 n n) :=
  ⟨places.length, 0, n, n, 0, by omega, few, by simpa using List.eq_replicate_of_mem none_there⟩

/-- The front of such a list: no page, or the first of its group's pages that are there. -/
theorem OneGroup.cons_cases {p : Option (GroupPos × Nat × Nat)} {places : List (Option (GroupPos × Nat × Nat))}
    (h : OneGroup (p :: places)) :
    (p = none ∧ OneGroup places) ∨
    ∃ first n count after, first + n < count ∧ count ≤ 4 ∧ p = some (groupPos count first, first, count) ∧
      places = groupPlaces (first + 1) n count ++ List.replicate after none := by
  obtain ⟨before, first, n, count, after, fits, few, split⟩ := h
  cases before with
  | succ before =>
    simp only [List.replicate_succ, List.cons_append, List.cons.injEq] at split
    exact .inl ⟨split.1, before, first, n, count, after, fits, few, split.2⟩
  | zero =>
    cases n with
    | succ n =>
      simp only [groupPlaces, List.range'_succ, List.replicate_zero, List.nil_append, List.map_cons, List.cons_append,
        List.cons.injEq] at split
      exact .inr ⟨first, n, count, after, by omega, few, split⟩
    | zero =>
      cases after with
      | zero => simp [groupPlaces] at split
      | succ after =>
        simp only [groupPlaces, List.range'_zero, List.map_nil, List.replicate_zero, List.nil_append, List.replicate_succ,
          List.cons.injEq] at split
        exact .inl ⟨split.1, .of_none fun p hp => List.eq_of_mem_replicate (split.2 ▸ hp)⟩

theorem OneGroup.tail {places : List (Option (GroupPos × Nat × Nat))} (h : OneGroup places) : OneGroup places.tail := by
  cases places with
  | nil => exact h
  | cons p places =>
    rcases h.cons_cases with ⟨-, rest⟩ | ⟨first, n, count, after, fits, few, -, rfl⟩
    · exact rest
    · exact ⟨0, first + 1, n, count, after, by omega, few, by simp⟩

/-- An entry that is no page leaves from any place. -/
theorem OneGroup.eraseIdx {places : List (Option (GroupPos × Nat × Nat))} (h : OneGroup places) {i : Nat}
    (other : places[i]? = some none) : OneGroup (places.eraseIdx i) := by
  induction places generalizing i with
  | nil => exact h
  | cons p places ih =>
    cases i with
    | zero => exact h.tail
    | succ i =>
      rcases h.cons_cases with ⟨rfl, rest⟩ | ⟨first, n, count, after, fits, few, rfl, rfl⟩
      · obtain ⟨before, first, n, count, after, fits, few, split⟩ := ih rest other
        exact ⟨before + 1, first, n, count, after, fits, few, by simp [split, List.replicate_succ]⟩
      · have behind : n ≤ i := by
          by_contra inside
          simp [groupPlaces, List.getElem?_append, Nat.lt_of_not_le inside] at other
        refine ⟨0, first, n + 1, count, after - 1, by omega, few, ?_⟩
        have front : (groupPlaces (first + 1) n count).length ≤ i := by simpa [groupPlaces] using behind
        have there : i - n < after := by
          have := (List.getElem?_eq_some_iff.1 other).1
          simp [groupPlaces] at this
          omega
        rw [List.eraseIdx_cons_succ, List.eraseIdx_append_of_length_le front, List.eraseIdx_replicate,
          if_pos (by simpa [groupPlaces] using there)]
        simp [groupPlaces, List.range'_succ]

end Sys2Proof.Machine
end

section
namespace Sys2Proof.Machine

/-! ### The law of the announce group, on the places of the queue (R105, R116, R119, R130, R131) -/

/-- The places of the entries in the Transmit Queue. -/
def State.places (s : State) : List (Option (GroupPos × Nat × Nat)) := s.tx.entries.map TxEntry.place

/-- No page of an announce group is in the Transmit Queue. -/
def State.NoPages (s : State) : Prop := ∀ p ∈ s.places, p = none

/-- The law of the announce group in the words of the places. -/
structure State.Grouped (s : State) : Prop where
  one : OneGroup s.places
  outside : s.announce.state = .none ∨ s.announce.waiting = true → s.NoPages
  waits : s.announce.waiting = true → s.announce.state ≠ .none
  holdOff : s.announce.holdOff.isSome → s.announce.state = .none
  config : s.node.state = .config → s.tx.entries = [] ∧ s.announce = {} ∧ s.sender.state = .silent ∧
    s.sender.levelTimer = none ∧ s.sender.refresh = none

theorem State.noPages_iff (s : State) : s.NoPages ↔ ∀ e ∈ s.tx.entries, e.isPage = false := by
  simp [State.NoPages, State.places, TxEntry.place_eq_none]

theorem State.groupLaw_iff (s : State) : s.GroupLaw ↔ s.Grouped := by
  rw [State.GroupLaw, ← oneGroup_iff, ← State.noPages_iff]
  exact ⟨fun ⟨one, outside, waits, holdOff, config⟩ => ⟨one, outside, waits, holdOff, config⟩,
    fun ⟨one, outside, waits, holdOff, config⟩ => ⟨one, outside, waits, holdOff, config⟩⟩

/-- The law where no page is in the queue, outside CONFIG. -/
theorem State.NoPages.grouped {s : State} (none_there : s.NoPages) (away : s.node.state ≠ .config)
    (waits : s.announce.waiting = true → s.announce.state ≠ .none)
    (holdOff : s.announce.holdOff.isSome → s.announce.state = .none) : s.Grouped where
  one := .of_none none_there
  outside _ := none_there
  waits := waits
  holdOff := holdOff
  config config := absurd config away

/-- With entries in the queue the node is not in CONFIG. -/
theorem State.Grouped.away {s : State} (law : s.Grouped) (waiting : s.tx.entries ≠ []) : s.node.state ≠ .config := by
  intro config
  obtain ⟨empty, -⟩ := law.config config
  exact waiting empty

/-- A page in the queue is one of a group that is queued or begun, with none waiting and no hold-off. -/
theorem State.Grouped.page_there {s : State} (law : s.Grouped) (page : ¬s.NoPages) :
    s.announce.state ≠ .none ∧ s.announce.waiting = false ∧ s.announce.holdOff = none := by
  have state : s.announce.state ≠ .none := fun h => page (law.outside (.inl h))
  refine ⟨state, ?_, ?_⟩
  · by_contra waiting
    exact page (law.outside (.inr (by simpa using waiting)))
  · by_contra running
    exact state (law.holdOff (Option.isSome_iff_ne_none.2 running))

/-! ### Events that keep the law -/

/-- From `s` to `u` the law of the announce group has been kept. -/
def PagesKept (s u : State) : Prop := s.Grouped → u.Grouped

theorem PagesKept.refl (s : State) : PagesKept s s := id

theorem PagesKept.trans {s u v : State} (h : PagesKept s u) (h' : PagesKept u v) : PagesKept s v := h' ∘ h

theorem PagesKept.ite {c : Prop} [Decidable c] {s t u : State} (h : c → PagesKept s t) (h' : ¬c → PagesKept s u) :
    PagesKept s (if c then t else u) := by
  split
  exacts [h ‹_›, h' ‹_›]

theorem PagesKept.foldl {β : Type} {f : State → β → State} (h : ∀ s b, PagesKept s (f s b)) (l : List β) (s : State) :
    PagesKept s (l.foldl f s) := by
  induction l generalizing s with
  | nil => exact .refl s
  | cons b l ih => exact (h s b).trans (ih (f s b))

/-- The law rests on the queue's pages, the announce record, the node state and what can ask for a LEVEL; a node that has left CONFIG
needs no more than one that is there. -/
theorem PagesKept.of_eq {s u : State} (entries : u.tx.entries = s.tx.entries := by simp)
    (announce : u.announce = s.announce := by simp) (state : u.sender.state = s.sender.state := by simp)
    (levelTimer : u.sender.levelTimer = none ↔ s.sender.levelTimer = none := by simp)
    (refresh : u.sender.refresh = none ↔ s.sender.refresh = none := by simp)
    (node : u.node.state = .config → s.node.state = .config := by simp) : PagesKept s u := fun law => by
  have places : u.places = s.places := congrArg (List.map TxEntry.place) entries
  obtain ⟨one, outside, waits, holdOff, config⟩ := law
  refine ⟨?_, ?_, ?_, ?_, fun now => ?_⟩
  · rwa [places]
  · rwa [announce, State.NoPages, places]
  · rwa [announce]
  · rwa [announce]
  · rw [entries, announce, state, levelTimer, refresh]; exact config (node now)

/-- What an attempt that may start changes of the queue's pages: none of their places, and the announce state where a page stands
in the queue (R105, R121). -/
structure PlacesKept (s u : State) : Prop where
  places : u.places = s.places
  announce : u.announce = s.announce ∨ u.announce = { s.announce with state := .begun } ∧ ¬s.NoPages
  node : u.node = s.node
  sender : u.sender = s.sender

theorem PlacesKept.refl (s : State) : PlacesKept s s := ⟨rfl, .inl rfl, rfl, rfl⟩

/-- With no page in the queue nothing of the announce record changes. -/
theorem PlacesKept.noPages {s u : State} (kept : PlacesKept s u) (none_there : s.NoPages) :
    u.NoPages ∧ u.announce = s.announce := by
  refine ⟨by rwa [State.NoPages, kept.places], ?_⟩
  rcases kept.announce with same | ⟨-, page⟩
  exacts [same, absurd none_there page]

theorem PlacesKept.pagesKept {s u : State} (kept : PlacesKept s u) : PagesKept s u := by
  intro law
  obtain ⟨places, announce, node, sender⟩ := kept
  have config (now : u.node.state = .config) : u.tx.entries = [] := by
    obtain ⟨empty, -⟩ := law.config (node ▸ now)
    simpa [State.places, empty] using places
  rcases announce with same | ⟨begun, page⟩
  · refine ⟨places ▸ law.one, ?_, ?_, ?_, fun now => ⟨config now, ?_⟩⟩
    · rw [same, State.NoPages, places]; exact law.outside
    · rw [same]; exact law.waits
    · rw [same]; exact law.holdOff
    · rw [same, sender]; exact (law.config (node ▸ now)).2
  · obtain ⟨-, inside, off⟩ := law.page_there page
    refine ⟨places ▸ law.one, ?_, ?_, ?_, fun now => ?_⟩
    · rw [begun]; simp [inside]
    · rw [begun]; simp
    · rw [begun]; simp [off]
    · exact absurd (law.outside (.inl (by rw [(law.config (node ▸ now)).2.1]))) page

/-! ### What the queue's operations leave of its pages (R116 to R121) -/

theorem begunEntry_place (s : State) (e : TxEntry) : (s.begunEntry e).place = e.place := by
  simp only [State.begunEntry]
  split
  · rfl
  · obtain ⟨body, sequence, attempts, begun⟩ := e
    cases body with
    | page pos index count known decls => cases index <;> rfl
    | _ => rfl

theorem State.startAttempt_placesKept (s : State) (t : Nat) : PlacesKept s (s.startAttempt t) := by
  cases entries : s.tx.entries with
  | nil => rw [State.startAttempt, entries]; exact .refl s
  | cons e rest =>
    refine ⟨by simp [State.startAttempt, State.places, entries, begunEntry_place], ?_, by simp, by simp⟩
    simp only [State.startAttempt, entries]
    split
    next page0 =>
      refine .inr ⟨rfl, fun none_there => ?_⟩
      have other := (s.noPages_iff.1 none_there) e (by simp [entries])
      cases body : e.body <;> simp [TxEntry.isPage0, TxEntry.isPage, body] at page0 other
    next => exact .inl rfl

theorem State.enterDefer_placesKept (s : State) : PlacesKept s s.enterDefer := by
  simp only [State.enterDefer]
  split
  · obtain ⟨places, announce, node, sender⟩ := State.startAttempt_placesKept { s with
      tx := { s.tx with engine := s.tx.engine.at .defer }, line := { s.line with wait := .none } } s.now
    exact ⟨places, announce, node, sender⟩
  · exact ⟨rfl, .inl rfl, rfl, rfl⟩

theorem State.wake_placesKept (s : State) : PlacesKept s s.wake := by
  simp only [State.wake]
  split
  exacts [s.enterDefer_placesKept, .refl s]

theorem State.nextEntry_placesKept (s : State) (groupOver : Bool) : PlacesKept s (s.nextEntry groupOver) := by
  simp only [State.nextEntry]
  split
  · split
    exacts [⟨rfl, .inl rfl, rfl, rfl⟩, s.enterDefer_placesKept]
  · split
    exacts [⟨rfl, .inl rfl, rfl, rfl⟩, s.enterDefer_placesKept]
  · exact .refl s

/-- An entry that is no page joins behind the others, outside CONFIG. -/
theorem State.Grouped.enqueue {s : State} (law : s.Grouped) (away : s.node.state ≠ .config) {e : TxEntry}
    (other : e.place = none) : (s.enqueue e).Grouped := by
  refine (State.wake_placesKept _).pagesKept (?_ : State.Grouped { s with tx := s.tx.push e })
  have places : State.places { s with tx := s.tx.push e } = s.places ++ [none] := by simp [State.places, Tx.push, other]
  refine ⟨places ▸ law.one.concat_none, fun h => ?_, law.waits, law.holdOff, fun now => absurd now away⟩
  rw [State.NoPages, places]
  simpa [or_imp, forall_and] using show ∀ p ∈ s.places, p = none from law.outside h

theorem State.NoPages.enqueue {s : State} (none_there : s.NoPages) {e : TxEntry} (other : e.place = none) :
    (s.enqueue e).NoPages ∧ (s.enqueue e).announce = s.announce := by
  refine (State.wake_placesKept { s with tx := s.tx.push e }).noPages ?_
  simpa [State.NoPages, State.places, Tx.push, other, or_imp, forall_and] using none_there

theorem groupPages_places (decls : List Declaration) : (groupPages decls).map TxEntry.place =
    groupPlaces 0 (max 1 ((decls.length + 3) / 4)) (max 1 ((decls.length + 3) / 4)) := by
  simp [groupPages, groupPlaces, List.range_eq_range', TxEntry.place]

/-- A group that is on its way joins whole or waits outside, outside CONFIG and with no page in the queue. -/
theorem State.NoPages.joinGroup {s : State} (none_there : s.NoPages) (away : s.node.state ≠ .config)
    (asked : s.announce.state ≠ .none) (off : s.announce.holdOff = none) : s.joinGroup.Grouped := by
  have few := s.ownDeclarations_length
  simp only [State.joinGroup]
  split
  · refine (State.wake_placesKept _).pagesKept ?_
    refine ⟨?_, fun h => ?_, fun h => absurd h nofun, fun h => ?_, fun now => absurd now away⟩
    · simp only [State.places, foldl_push, List.map_append, groupPages_places]
      exact .append_group none_there (by omega)
    · rcases h with h | h
      exacts [absurd h asked, absurd h nofun]
    · rw [off] at h; cases h
  · exact State.NoPages.grouped none_there away (fun _ => asked) (by simp [off])

theorem State.NoPages.queueGroup {s : State} (none_there : s.NoPages) (away : s.node.state ≠ .config)
    (off : s.announce.holdOff = none) : s.queueGroup.Grouped :=
  State.NoPages.joinGroup (s := { s with announce := { s.announce with state := .queued } }) none_there away nofun off

/-- The pending LEVEL and a waiting group take the places that have freed. -/
theorem State.Grouped.settleWaiting {s : State} (law : s.Grouped) (away : s.node.state ≠ .config) :
    s.settleWaiting.Grouped := by
  have joins {t : State} (law : t.Grouped) (away : t.node.state ≠ .config) :
      (if t.announce.waiting then t.joinGroup else t).Grouped := by
    split
    next waiting =>
      have asked := law.waits waiting
      refine State.NoPages.joinGroup (law.outside (.inr waiting)) away asked ?_
      by_contra running
      exact asked (law.holdOff (Option.isSome_iff_ne_none.2 running))
    next => exact law
  simp only [State.settleWaiting]
  split
  · split
    · exact joins law away
    · have kept : State.Grouped { s with sender := { s.sender with pending := none } } :=
        PagesKept.of_eq (s := s) rfl rfl rfl .rfl .rfl id law
      exact joins (kept.enqueue away rfl) (by simpa using away)
  · exact joins law away

theorem State.NoPages.settleWaiting {s : State} (none_there : s.NoPages) (inside : s.announce.waiting = false) :
    s.settleWaiting.NoPages ∧ s.settleWaiting.announce = s.announce := by
  simp only [State.settleWaiting]
  split
  · split
    · simpa [inside] using none_there
    · obtain ⟨none_left, same⟩ := State.NoPages.enqueue (s := { s with sender := { s.sender with pending := none } })
        none_there (e := { body := .level s.levelPairs ‹Bool› }) rfl
      rw [if_neg (by rw [same]; simp [inside])]
      exact ⟨none_left, same⟩
  · simpa [inside] using none_there

end Sys2Proof.Machine
end

section
namespace Sys2Proof.Machine

/-! ### The drop of an entry, part by part (R124, R125) -/

/-- The record of an entry dropped as LATE or EXCESSIVE (R124). -/
def State.txDroppedRecord (s : State) (e : TxEntry) (reason : TxReason) : Record :=
  { kind := .txDropped, count := s.merge.periodCount, station := some s.cfg.station, detail := some reason.code
    value := e.sequence.map Int.ofNat }

/-- The record of a TRIGGER entry dropped as stale (R125). -/
def State.staleRecord (s : State) (item : TriggerItem) : Record :=
  { kind := .triggerDropped, count := s.merge.periodCount, station := some s.cfg.station, channel := item.staleFields.1
    detail := some 7, value := some (item.staleFields.2 : Int) }

/-- An entry has left, with `tx` the queue that remains: the drop is counted and reported. -/
def State.dropMade (s : State) (tx : Tx) (record : Record) : State :=
  { s with
    tx, counters := { s.counters with txDropped := min 65535 (s.counters.txDropped + 1) }, events := s.events.offer record }

/-- The queue once its current entry `e` has left with the later pages of its group. -/
def TxEntry.leaves (e : TxEntry) (tx : Tx) : Tx := if e.hasLaterPages then tx.pop.popLaterPages 3 else tx.pop

/-- The drop of a page or of a BYE is told to its owner (R105, R113). -/
def State.dropTold (s : State) (e : TxEntry) : State :=
  match e.body with
  | .page .. => s.groupOver false
  | .bye => { s with node := { s.node with leaveDue := true } }
  | _ => s

theorem State.dropCurrent_eq {s : State} {e : TxEntry} {rest : List TxEntry} (entries : s.tx.entries = e :: rest)
    (reason : TxReason) : s.dropCurrent reason =
      ((s.dropMade (e.leaves s.tx) (s.txDroppedRecord e reason)).settleWaiting.nextEntry true).dropTold e := by
  simp only [State.dropCurrent, entries]
  rfl

theorem State.dropStale_eq (s : State) (i : Nat) (item : TriggerItem) : s.dropStale i item =
    let left := (s.dropMade (s.tx.remove i) (s.staleRecord item)).settleWaiting
    if i = 0 then left.nextEntry true else left := rfl

theorem popLaterPages_leaves {pages left : List TxEntry} (later : ∀ p ∈ pages, p.laterPage = true)
    (ends : ∀ p, left.head? = some p → p.laterPage = false) {n : Nat} (size : pages.length ≤ n) {tx : Tx}
    (entries : tx.entries = pages ++ left) : (Tx.popLaterPages n tx).entries = left := by
  induction n generalizing pages tx with
  | zero =>
    rw [List.length_eq_zero_iff.1 (Nat.le_zero.1 size)] at entries
    exact entries
  | succ n ih =>
    cases pages with
    | cons p pages =>
      simp only [Tx.popLaterPages, entries, List.cons_append, later p (by simp), if_true]
      exact ih (fun q hq => later q (List.mem_cons_of_mem p hq)) (by simpa using size) (by simp [entries])
    | nil =>
      cases left with
      | nil => simp [Tx.popLaterPages, entries]
      | cons q left => simp [Tx.popLaterPages, entries, ends q rfl]

/-- What the drop of the current entry leaves in the queue is what R124 has it leave behind. -/
theorem TxEntry.LeavesBehind.entries {e : TxEntry} {rest left : List TxEntry} (behind : e.LeavesBehind rest left) {tx : Tx}
    (entries : tx.entries = e :: rest) : (e.leaves tx).entries = left := by
  obtain ⟨pages, rfl, later, size, alone, ends⟩ := behind
  simp only [TxEntry.leaves]
  split
  next has => exact popLaterPages_leaves later (ends has) size (by simp [entries])
  next none_later => simp [entries, alone (by simpa using none_later)]

theorem popLaterPages_suffix (n : Nat) (tx : Tx) : (Tx.popLaterPages n tx).entries <:+ tx.entries := by
  induction n generalizing tx with
  | zero => exact List.suffix_refl _
  | succ n ih =>
    simp only [Tx.popLaterPages]
    split
    · split
      · exact (ih tx.pop).trans (by simpa using List.tail_suffix tx.entries)
      · exact List.suffix_refl _
    · exact List.suffix_refl _

theorem TxEntry.leaves_suffix (e : TxEntry) (tx : Tx) : (e.leaves tx).entries <:+ tx.entries.tail := by
  simp only [TxEntry.leaves]
  split
  · simpa using popLaterPages_suffix 3 tx.pop
  · simp

/-! ### What stands behind a page of the own group (R117, R122, R124) -/

section
variable {e : TxEntry} {count index : Nat} (place : e.place = some (groupPos count index, index, count))
  (inside : index < count)
include place inside

theorem TxEntry.hasLaterPages_of_place : e.hasLaterPages = decide (index + 1 < count) := by
  obtain ⟨known, decls, body⟩ := (TxEntry.place_eq_some _ _ _ _).1 place
  by_cases alone : count = 1
  · simp [TxEntry.hasLaterPages, body, groupPos, alone]
  by_cases first : index = 0
  · simp only [TxEntry.hasLaterPages, body, groupPos, if_neg alone, if_pos first]; simp; omega
  by_cases last : index + 1 = count
  · simp [TxEntry.hasLaterPages, body, groupPos, alone, first, last]
  · simp only [TxEntry.hasLaterPages, body, groupPos, if_neg alone, if_neg first, if_neg last]; simp; omega

theorem TxEntry.laterPage_of_place : e.laterPage = decide (0 < index) := by
  obtain ⟨known, decls, body⟩ := (TxEntry.place_eq_some _ _ _ _).1 place
  by_cases alone : count = 1
  · simp only [TxEntry.laterPage, body, groupPos, if_pos alone]; simp; omega
  by_cases first : index = 0
  · simp [TxEntry.laterPage, body, groupPos, alone, first]
  have later : 0 < index := Nat.pos_of_ne_zero first
  by_cases last : index + 1 = count <;> simp [TxEntry.laterPage, body, groupPos, alone, first, last, later]

end

/-- The page at the front of the queue leaves no page behind once the later pages of its group have left with it. -/
theorem OneGroup.leavesBehind {e : TxEntry} {rest : List TxEntry} (h : OneGroup ((e :: rest).map TxEntry.place))
    (page : e.isPage = true) : ∃ left, e.LeavesBehind rest left ∧ ∀ p ∈ left, p.isPage = false := by
  rcases OneGroup.cons_cases h with ⟨other, -⟩ | ⟨first, n, count, after, fits, few, place, behind⟩
  · rw [TxEntry.place_eq_none, page] at other; cases other
  obtain ⟨pages, left, rfl, page_places, left_places⟩ := List.map_eq_append_iff.1 behind
  have size : pages.length = n := by simpa [groupPlaces] using congrArg List.length page_places
  have others : ∀ p ∈ left, p.isPage = false := fun p hp =>
    p.place_eq_none.1 (List.eq_of_mem_replicate (left_places ▸ List.mem_map_of_mem hp))
  have later : ∀ p ∈ pages, p.laterPage = true := by
    intro p hp
    have numbered : p.place ∈ groupPlaces (first + 1) n count := page_places ▸ List.mem_map_of_mem hp
    obtain ⟨i, hi, at_i⟩ := List.mem_map.1 numbered
    rw [List.mem_range'_1] at hi
    rw [p.laterPage_of_place at_i.symm (by omega)]
    simp; omega
  refine ⟨left, ⟨pages, rfl, later, by omega, fun alone => ?_, fun _ p hp => ?_⟩, others⟩
  · rw [e.hasLaterPages_of_place place (by omega)] at alone
    exact List.length_eq_zero_iff.1 (by simp at alone; omega)
  · have other := others p (List.mem_of_mem_head? hp)
    cases body : p.body <;> simp [TxEntry.isPage, TxEntry.laterPage, body] at other ⊢

/-- The page at the front with which its group ends is the last that stands in the queue. -/
theorem OneGroup.ends {e : TxEntry} {rest : List TxEntry} (h : OneGroup ((e :: rest).map TxEntry.place))
    (page : e.isPage = true) (ends : ¬(e.hasLaterPages = true ∧ ∃ next, rest.head? = some next ∧ next.laterPage = true)) :
    ∀ p ∈ rest, p.isPage = false := by
  obtain ⟨left, ⟨pages, rfl, later, -, alone, -⟩, others⟩ := h.leavesBehind page
  cases pages with
  | nil => exact others
  | cons p pages =>
    have has : e.hasLaterPages = true := by
      by_contra none_later
      cases alone (by simpa using none_later)
    exact absurd ⟨has, p, rfl, later p (by simp)⟩ ends

end Sys2Proof.Machine
end

section
namespace Sys2Proof.Machine

/-! ### An entry leaves, and its group with it (R105, R122 to R125) -/

theorem Tx.groupEnds_iff {tx : Tx} {e : TxEntry} {rest : List TxEntry} (entries : tx.entries = e :: rest) :
    tx.groupEnds = true ↔
      ¬(e.hasLaterPages = true ∧ ∃ next, rest.head? = some next ∧ next.laterPage = true) := by
  cases rest <;> simp [Tx.groupEnds, entries, imp_iff_not_or]

theorem State.places_of_entries {s : State} {entries : List TxEntry} (h : s.tx.entries = entries) :
    s.places = entries.map TxEntry.place := congrArg (List.map TxEntry.place) h

/-- An entry has left the front of the queue: the pages that remain are those of the queue before, but for it. -/
theorem State.Grouped.of_tail {s u : State} (law : s.Grouped) (waiting : s.tx.entries ≠ [])
    (entries : u.tx.entries = s.tx.entries.tail) (announce : u.announce = s.announce) (node : u.node.state = s.node.state) :
    u.Grouped := by
  have places : u.places = s.places.tail := by simp [State.places, entries, List.map_tail]
  refine ⟨places ▸ law.one.tail, fun h p hp => ?_, announce ▸ law.waits, announce ▸ law.holdOff,
    fun now => absurd (node.symm.trans now) (law.away waiting)⟩
  rw [places] at hp
  exact law.outside (announce ▸ h) p (List.mem_of_mem_tail hp)

/-- With the last page of its group gone, the group is over: the hold-off runs or a remembered group is queued (R105). -/
theorem State.NoPages.groupOver {s : State} (none_there : s.NoPages) (away : s.node.state ≠ .config)
    (inside : s.announce.waiting = false) (off : s.announce.holdOff = none) (completed : Bool) :
    (s.groupOver completed).Grouped := by
  have ended (t : State) : PagesKept t t.endJoin := .of_eq
  simp only [State.groupOver]
  refine ended _ ?_
  split
  · exact State.NoPages.queueGroup (s := { s with announce := _ }) none_there away off
  · split
    · exact State.NoPages.grouped (s := { s with announce := _ }) none_there away (by simp [inside]) fun _ => rfl
    · exact State.NoPages.grouped (s := { s with announce := _ }) none_there away (by simp [inside]) fun _ => rfl

/-- The places that have freed are taken and the engine moves on, with no page in the queue and none waiting outside. -/
theorem State.NoPages.movesOn {s : State} (none_there : s.NoPages) (inside : s.announce.waiting = false) (groupOver : Bool) :
    (s.settleWaiting.nextEntry groupOver).NoPages ∧ (s.settleWaiting.nextEntry groupOver).announce = s.announce := by
  obtain ⟨none_left, same⟩ := none_there.settleWaiting inside
  obtain ⟨none_last, same'⟩ := (s.settleWaiting.nextEntry_placesKept groupOver).noPages none_left
  exact ⟨none_last, same'.trans same⟩

theorem State.Grouped.movesOn {s : State} (law : s.Grouped) (away : s.node.state ≠ .config) (groupOver : Bool) :
    (s.settleWaiting.nextEntry groupOver).Grouped :=
  (State.nextEntry_placesKept _ _).pagesKept (law.settleWaiting away)

theorem State.dropCurrent_pagesKept (s : State) (reason : TxReason) : PagesKept s (s.dropCurrent reason) := by
  intro law
  cases entries : s.tx.entries with
  | nil => rw [State.dropCurrent, entries]; exact law
  | cons e rest =>
    have waiting : s.tx.entries ≠ [] := by simp [entries]
    have away := law.away waiting
    rw [State.dropCurrent_eq entries]
    generalize hr : s.txDroppedRecord e reason = record
    cases page : e.isPage with
    | false =>
      have made : (s.dropMade (e.leaves s.tx) record).Grouped := by
        refine law.of_tail waiting ?_ rfl rfl
        simp [State.dropMade, TxEntry.leaves, TxEntry.hasLaterPages_of page]
      have moved := made.movesOn away true
      generalize (s.dropMade (e.leaves s.tx) record).settleWaiting.nextEntry true = v at moved
      simp only [State.dropTold]
      split
      next body => simp [TxEntry.isPage, body] at page
      next => exact (PagesKept.of_eq : PagesKept v _) moved
      next => exact moved
    | true =>
      obtain ⟨left, behind, others⟩ := OneGroup.leavesBehind (State.places_of_entries entries ▸ law.one) page
      obtain ⟨-, inside, off⟩ := law.page_there fun none_there => by
        have other := s.noPages_iff.1 none_there e (by simp [entries])
        rw [page] at other; cases other
      have none_left : (s.dropMade (e.leaves s.tx) record).NoPages :=
        (State.noPages_iff _).2 (by simpa [State.dropMade, behind.entries entries] using others)
      obtain ⟨none_there, same⟩ := none_left.movesOn inside true
      have told (v : State) : v.dropTold e = v.groupOver false := by
        cases body : e.body <;> simp [TxEntry.isPage, State.dropTold, body] at page ⊢
      rw [told]
      exact none_there.groupOver (by simpa [State.dropMade] using away) (by rw [same]; exact inside) (by rw [same]; exact off) false

/-- A TRIGGER entry leaves from any place as stale. -/
theorem State.dropStale_pagesKept {s : State} {i : Nat} {e : TxEntry} (there : s.tx.entries[i]? = some e)
    (other : e.isPage = false) (item : TriggerItem) : PagesKept s (s.dropStale i item) := by
  intro law
  have waiting : s.tx.entries ≠ [] := fun empty => by simp [empty] at there
  have entries : (s.tx.remove i).entries = s.tx.entries.eraseIdx i := by
    cases i with
    | zero => simp [Tx.remove]
    | succ i =>
      have inside := (List.getElem?_eq_some_iff.1 there).1
      simp [Tx.remove, inside]
  have made : (s.dropMade (s.tx.remove i) (s.staleRecord item)).Grouped := by
    have places : (s.dropMade (s.tx.remove i) (s.staleRecord item)).places = s.places.eraseIdx i := by
      simp [State.places, State.dropMade, entries, List.eraseIdx_map]
    refine ⟨?_, fun h p hp => ?_, law.waits, law.holdOff, fun now => absurd now (law.away waiting)⟩
    · rw [places]
      exact law.one.eraseIdx (by simp [State.places, there, e.place_eq_none.2 other])
    · rw [places] at hp
      exact law.outside h p (List.mem_of_mem_eraseIdx hp)
  have settled := made.settleWaiting (by simpa [State.dropMade] using law.away waiting)
  rw [State.dropStale_eq]
  dsimp only
  split
  exacts [(State.nextEntry_placesKept _ _).pagesKept settled, settled]

theorem State.keepForRetry_pagesKept {s : State} {e tried : TxEntry} {rest : List TxEntry} (entries : s.tx.entries = e :: rest)
    (body : tried.body = e.body) : PagesKept s (s.keepForRetry tried) := by
  have place : tried.place = e.place := by simp only [TxEntry.place, body]
  have kept (engine : Engine) (line : Line) :
      PlacesKept s { s with tx := { s.tx with entries := tried :: rest, engine }, line } :=
    ⟨by simp [State.places, entries, place], .inl rfl, rfl, rfl⟩
  by_cases slots : drawSlots (lfsrStep s.line.backoffReg) tried.attempts = 0
  · rw [State.keepForRetry_defers entries slots]
    exact (kept _ _).pagesKept.trans (State.enterDefer_placesKept _).pagesKept
  · rw [State.keepForRetry_waits entries slots]
    exact (kept _ _).pagesKept

theorem State.attemptFailed_pagesKept (s : State) : PagesKept s s.attemptFailed := by
  cases entries : s.tx.entries with
  | nil => rw [State.attemptFailed, entries]; exact .refl s
  | cons e rest =>
    have retried : PagesKept s (if e.attempts + 1 < 12 then s.keepForRetry { e with attempts := e.attempts + 1 }
        else if s.cfg.timing.persist then s.keepForRetry { e with attempts := 0 } else s.dropCurrent .excessive) := by
      refine .ite (fun _ => State.keepForRetry_pagesKept entries rfl) fun _ => .ite (fun _ => ?_) fun _ => ?_
      exacts [State.keepForRetry_pagesKept entries rfl, s.dropCurrent_pagesKept _]
    by_cases trigger : ∃ item q d, e.body = .trigger item q d
    · obtain ⟨item, q, d, body⟩ := trigger
      rw [State.attemptFailed_trigger entries body]
      refine .ite (fun _ => ?_) fun _ => retried
      exact State.dropStale_pagesKept (i := 0) (e := e) (by simp [entries]) (by simp [TxEntry.isPage, body]) item
    · rw [State.attemptFailed_other entries fun item q d body => trigger ⟨item, q, d, body⟩]
      exact retried

end Sys2Proof.Machine
end

section
namespace Sys2Proof.Machine

/-! ### Votes, FAULT and re-announces keep the law (R65, R103 to R105, R114) -/

theorem rewriteLevel_place (pairs : List (Nat × Int)) (hold : Bool) (e : TxEntry) :
    (rewriteLevel pairs hold e).place = e.place := by
  simp only [rewriteLevel]
  split
  next fresh => cases body : e.body <;> simp [TxEntry.isLevel, TxEntry.place, body] at fresh ⊢
  next => rfl

/-- A LEVEL is asked for outside CONFIG. -/
theorem State.Grouped.queueLevel {s : State} (law : s.Grouped) (away : s.node.state ≠ .config) (hold : Bool) :
    (s.queueLevel hold).Grouped := by
  simp only [State.queueLevel]
  split
  · refine PlacesKept.pagesKept (s := s) ⟨?_, .inl rfl, rfl, rfl⟩ law
    simp [State.places, Function.comp_def, rewriteLevel_place]
  · split
    · exact (PagesKept.of_eq : PagesKept s _) law
    · exact law.enqueue away rfl

/-- In CONFIG the Level Sender is SILENT, so a vote there asks for no LEVEL. -/
theorem State.formRequest_pagesKept (s : State) : PagesKept s s.formRequest := by
  intro law
  simp only [State.formRequest]
  split
  · exact law
  · have kept : State.Grouped { s with output := { s.output with ownRequest := s.formOwnRequest } } :=
      (PagesKept.of_eq : PagesKept s _) law
    split
    next => exact kept
    next talks =>
      refine kept.queueLevel (fun config => talks ?_) _
      obtain ⟨-, -, silent, -⟩ := law.config config
      exact silent

theorem State.revote_pagesKept (s : State) : PagesKept s s.revote := by
  rw [State.revote]
  exact s.formRequest_pagesKept.trans .of_eq

theorem State.enterFault_pagesKept (s : State) : PagesKept s s.enterFault := by
  by_cases joined : s.node.state.joined = true
  · rw [State.enterFault_eq joined]
    refine .trans (fun law => ?_) (State.revote_pagesKept _)
    have places : s.faultMade.places = s.places := by simp [State.places, State.faultMade]
    refine ⟨places ▸ law.one, fun h => ?_, ?_, ?_, ?_⟩
    · have none_state : s.announce.state = .none := by simpa [State.faultMade] using h
      rw [State.NoPages, places]; exact law.outside (.inl none_state)
    all_goals simp [State.faultMade]
  · rw [State.enterFault, if_neg joined]
    exact .refl s

/-- A request that is remembered stands beside the group that is there. -/
theorem State.remembered_pagesKept {s : State} (away : s.node.state ≠ .config) :
    PagesKept s { s with announce := { s.announce with remembered := true } } := fun law =>
  ⟨law.one, law.outside, law.waits, law.holdOff, fun config => absurd config away⟩

theorem State.requestAnnounce_pagesKept (s : State) : PagesKept s s.requestAnnounce := by
  simp only [State.requestAnnounce]
  refine .ite (fun _ => .refl s) fun _ => .ite (fun joined => ?_) fun _ => .refl s
  have away : s.node.state ≠ .config := by rcases joined with h | h <;> rw [h] <;> decide
  split
  next none_there =>
    refine .ite (fun _ => State.remembered_pagesKept away) fun off law => ?_
    exact State.NoPages.queueGroup (law.outside (.inl none_there)) away (by simpa using off)
  next => exact .refl s
  next => exact State.remembered_pagesKept away

/-! ### A burst applied keeps the law (R95 to R103) -/

theorem State.completeGroup_pagesKept (s : State) (x : Nat) (a : Assembly) : PagesKept s (s.completeGroup x a) := by
  have taken : PagesKept s (s.groupTaken x a) :=
    .of_eq (by simp [State.groupTaken]) (by simp [State.groupTaken]) (by simp [State.groupTaken]) (by simp [State.groupTaken])
      (by simp [State.groupTaken]) (by simp [State.groupTaken])
  rw [State.completeGroup_eq]
  exact .ite (fun _ => taken) fun _ => taken.trans (State.requestAnnounce_pagesKept _)

theorem State.takeAssembly_pagesKept (s : State) (x : Nat) (a : Assembly) : PagesKept s (s.takeAssembly x a) :=
  .ite (fun _ => s.completeGroup_pagesKept x a) fun _ => .of_eq

theorem State.applyPage_pagesKept (s : State) (x index count : Nat) (decls : List Declaration) :
    PagesKept s (s.applyPage x index count decls) := by
  simp only [State.applyPage]
  split
  · exact .ite (fun _ => s.takeAssembly_pagesKept x _) fun _ => .of_eq
  · exact .of_eq

theorem State.applyUnannounced_pagesKept (s : State) (x : Nat) : PagesKept s (s.applyUnannounced x) :=
  .trans .of_eq (State.requestAnnounce_pagesKept (s.countUndeclared x))

theorem State.applyContents_pagesKept (s : State) (e : FifoEntry) : PagesKept s (s.applyContents e) := by
  simp only [State.applyContents]
  split
  · exact s.takeAssembly_pagesKept _ _
  · exact s.applyPage_pagesKept _ _ _ _
  · exact .ite (fun _ => s.applyUnannounced_pagesKept _) fun _ => .of_eq
  · exact .ite (fun _ => .trans .of_eq (State.applyUnannounced_pagesKept (dropItems _ _ s) _)) fun _ => .of_eq
  · exact .of_eq

/-- This node's own burst changes at most what the Level Sender has last sent. -/
theorem State.applyOwn_pagesKept (s : State) (e : FifoEntry) : PagesKept s (s.applyOwn e) := by
  simp only [State.applyOwn]
  split
  · exact .of_eq rfl rfl rfl .rfl .rfl id
  all_goals exact .of_eq

theorem State.applyEntry_pagesKept (s : State) (e : FifoEntry) : PagesKept s (s.applyEntry e) := by
  refine .trans ?_ (State.revote_pagesKept _)
  refine .ite (fun _ => .of_eq) fun _ => .ite (fun _ => s.applyOwn_pagesKept e) fun _ => .ite (fun _ => ?_) fun _ => ?_
  · exact .ite (fun _ => .refl s) fun _ => .trans .of_eq (State.enterFault_pagesKept _)
  · exact .trans .of_eq (State.applyContents_pagesKept (s.headerSteps e.burst) e)

theorem State.applyOldest_pagesKept (s : State) : PagesKept s s.applyOldest := by
  simp only [State.applyOldest]
  split
  · exact .refl s
  · exact .trans .of_eq (State.applyEntry_pagesKept _ _)

theorem State.losePeer_pagesKept (s : State) (x : Nat) : PagesKept s (s.losePeer x) := by
  simp only [State.losePeer]
  split
  · exact .ite (fun _ => .refl s) fun _ => .trans .of_eq (State.revote_pagesKept _)
  · exact .refl s

theorem State.forgetPeer_pagesKept (s : State) (x : Nat) : PagesKept s (s.forgetPeer x) := by
  simp only [State.forgetPeer]
  split
  · exact .ite (fun _ => .refl s) fun _ => .trans .of_eq (State.revote_pagesKept _)
  · exact .refl s

/-! ### A pass and LEAVE keep the law (R11, R49, R88, R113, R129, R130) -/

theorem State.grouped_of_empty {s : State} (entries : s.tx.entries = []) (announce : s.announce = {})
    (sender : s.sender.state = .silent ∧ s.sender.levelTimer = none ∧ s.sender.refresh = none) : s.Grouped where
  one := .of_none (by simp [State.places, entries])
  outside _ := by simp [State.NoPages, State.places, entries]
  waits := by simp [announce]
  holdOff := by simp [announce]
  config _ := ⟨entries, announce, sender⟩

/-- The end of a session leaves nothing queued, whatever stood before. -/
theorem State.completeLeave_pagesKept (s : State) : PagesKept s s.completeLeave := fun _ => by
  obtain ⟨-, -, -, -, -, -, tx, sender, announce, -⟩ := s.completeLeave_ended
  exact State.grouped_of_empty (by rw [tx]) announce (by rw [sender]; exact ⟨rfl, rfl, rfl⟩)

theorem State.makeHeld_pagesKept (s : State) (h : HeldChange) : PagesKept s (s.makeHeld h) := by
  cases h with
  | silence x => exact s.losePeer_pagesKept x
  | forget x => exact s.forgetPeer_pagesKept x
  | applyBurst => exact s.applyOldest_pagesKept
  | leaveCompletion => exact .ite (fun _ => s.completeLeave_pagesKept) fun _ => .refl s
  | ownEntries => exact .of_eq (u := s.createOwnEntries) rfl rfl rfl .rfl .rfl id

theorem State.monitorPass_pagesKept (s : State) (p : Pass) : PagesKept s (s.monitorPass p) := by
  obtain ⟨events, axes, counted | tripped⟩ := s.monitorPass_cases p
  · rw [counted]; exact .of_eq
  · rw [tripped]; exact .trans .of_eq (State.revote_pagesKept _)

theorem State.handOver_pagesKept (s : State) (p : Pass) : PagesKept s (s.handOver p) := by
  simp only [State.handOver]
  split
  · exact .trans .of_eq (State.monitorPass_pagesKept _ p)
  · exact (s.monitorPass_pagesKept p).trans .of_eq

theorem State.finishPass_pagesKept (s : State) : PagesKept s s.finishPass := by
  simp only [State.finishPass]
  split
  · exact .refl s
  · refine .trans (.trans ?_ (State.handOver_pagesKept _ _)) (.foldl State.makeHeld_pagesKept _ _)
    exact .of_eq

theorem State.beginPass_pagesKept (s : State) (order : HandOverOrder) : PagesKept s (s.beginPass order) :=
  .of_eq rfl rfl rfl (by simp [State.beginPass, State.computeAxes, State.mergeChannels, State.countExpiry]) .rfl id

/-- JOIN begins with an empty queue, so the own group is the one group there. -/
theorem State.joinNow_pagesKept {s : State} (config : s.node.state = .config) : PagesKept s s.joinNow := by
  intro law
  obtain ⟨empty, announce, -⟩ := law.config config
  rw [State.joinNow_eq]
  refine State.revote_pagesKept _ ?_
  by_cases listens : s.cfg.station = 0
  · rw [State.joinPrepared_listening s listens]
    exact PagesKept.of_eq (s := s) rfl rfl rfl .rfl .rfl nofun law
  · rw [State.joinPrepared, if_neg listens]
    refine State.NoPages.queueGroup ?_ (by simp [State.selfBegun, State.joinBegun])
      (by simp [State.selfBegun, State.joinBegun, announce])
    simp [State.NoPages, State.places, State.selfBegun, State.joinBegun, empty]

/-- Outside CONFIG the law rests on the pages and on what the announce record says of them. -/
theorem PagesKept.of_away {s u : State} (away : u.node.state ≠ .config) (entries : u.tx.entries = s.tx.entries := by simp)
    (announce : u.announce = { s.announce with remembered := u.announce.remembered } := by simp) : PagesKept s u := by
  intro law
  have places : u.places = s.places := congrArg (List.map TxEntry.place) entries
  refine ⟨places ▸ law.one, ?_, ?_, ?_, fun config => absurd config away⟩
  · rw [announce, State.NoPages, places]; exact law.outside
  · rw [announce]; exact law.waits
  · rw [announce]; exact law.holdOff

/-- LEAVE keeps at most the entry in front, for no other has begun. -/
theorem State.byeQueued_pagesKept {s : State} (away : s.node.state ≠ .config)
    (front : ∀ e ∈ s.tx.entries.tail, e.begun = false) : PagesKept s s.byeQueued := by
  intro law
  have kept : OneGroup ((s.tx.entries.filter (·.begun)).map TxEntry.place) := by
    have one : OneGroup (s.tx.entries.map TxEntry.place) := law.one
    cases entries : s.tx.entries with
    | nil => exact .of_none (by simp)
    | cons e rest =>
      rw [entries] at one front
      rw [List.filter_cons, List.filter_eq_nil_iff.2 fun x hx => by simp [front x hx]]
      split
      · rcases OneGroup.cons_cases one with ⟨other, -⟩ | ⟨first, n, count, after, fits, few, place, -⟩
        · exact .of_none (by simp [other])
        · exact ⟨0, first, 1, count, 0, by omega, few, by simp [groupPlaces, place]⟩
      · exact .of_none (by simp)
  refine ⟨?_, fun h => ?_, nofun, fun running => ?_, fun config => absurd config away⟩
  · have places : s.byeQueued.places = (s.tx.entries.filter (·.begun)).map TxEntry.place ++ [none] := by
      simp [State.places, State.byeQueued, TxEntry.place]
    exact places ▸ kept.concat_none
  · have none_state : s.byeQueued.announce.state = .none := h.resolve_right nofun
    rw [State.noPages_iff]
    intro e he
    rcases List.mem_append.1 he with begun | bye
    · simp only [State.byeQueued] at none_state
      split at none_state
      · exact (State.noPages_iff _).1 (law.outside (.inl none_state)) e (List.mem_of_mem_filter begun)
      next none_kept =>
        by_contra page
        exact none_kept (List.any_eq_true.2 ⟨e, begun, by simpa using page⟩)
    · rw [List.mem_singleton.1 bye]; rfl
  · have none_state := law.holdOff running
    simp only [State.byeQueued, none_state, ite_self]

theorem State.queueBye_pagesKept {s : State} (away : s.node.state ≠ .config)
    (front : ∀ e ∈ s.tx.entries.tail, e.begun = false) : PagesKept s s.queueBye := by
  refine (State.byeQueued_pagesKept away front).trans (.trans (State.wake_placesKept _).pagesKept ?_)
  rw [State.queueBye_eq]
  split
  · exact .of_eq
  · exact (State.enterDefer_placesKept _).pagesKept
  · exact .refl _

theorem State.leaveTalking_pagesKept {s : State} (front : ∀ e ∈ s.tx.entries.tail, e.begun = false) :
    PagesKept s s.leaveTalking := by
  obtain ⟨tx, -, announce, -⟩ := State.revote_silent (s := s.leaveBegun) rfl
  have node : s.leaveBegun.revote.node.state = .leaving := by simp [State.leaveBegun]
  rw [State.leaveTalking_eq]
  refine .trans (.of_away (by rw [node]; decide) (by rw [tx]; rfl) (by rw [announce]; rfl))
    (State.queueBye_pagesKept (by rw [node]; decide) (by rw [tx]; exact front))

/-- A listener's LEAVE completes, or leaves the queue as it is until its completion is made. -/
theorem State.leaveListening_pagesKept (s : State) : PagesKept s s.leaveListening := by
  by_cases between : s.merge.pass = none
  · rw [State.leaveListening_between between]
    exact fun law => State.completeLeave_pagesKept _ (PagesKept.of_away (s := s) (by simp [State.listenerLeaves])
      (by simp [State.listenerLeaves]) (by simp [State.listenerLeaves]) law)
  · rw [State.leaveListening_inPass between]
    refine .trans ?_ (State.revote_pagesKept _)
    exact .of_away (by simp [State.leaveHeld, State.listenerLeaves]) (by simp [State.leaveHeld, State.listenerLeaves])
      (by simp [State.leaveHeld, State.listenerLeaves])

/-! ### The timers and the end of an attempt keep the law (R105, R122, R132, R133) -/

/-- The Level Sender asks for a LEVEL by a timer of its own, which runs outside CONFIG only. -/
theorem State.askLevel_pagesKept {s a : State} {hold : Bool} (away : s.node.state ≠ .config)
    (node : a.node = s.node := by simp) (tx : a.tx = s.tx := by simp) (announce : a.announce = s.announce := by simp) :
    PagesKept s (a.queueLevel hold) := by
  intro law
  rw [← node] at away
  exact State.Grouped.queueLevel (PagesKept.of_away (s := s) away (by rw [tx]) (by rw [announce]) law) away hold

theorem State.checkLevel_pagesKept {s : State} (away : s.node.state ≠ .config) : PagesKept s s.checkLevel := by
  simp only [State.checkLevel]
  refine .ite (fun _ => State.askLevel_pagesKept away) fun _ => .ite (fun _ => ?_) fun _ => .refl s
  exact .of_away away

/-- What a completed entry reports, with the pages of its group gone where the group ends with it (R122). -/
theorem State.reportCompleted_grouped {s : State} (law : s.Grouped) (away : s.node.state ≠ .config) {e : TxEntry} {ends : Bool}
    (gone : e.isPage = true → ends = true → s.NoPages ∧ s.announce.waiting = false ∧ s.announce.holdOff = none) :
    (s.reportCompleted e ends).Grouped := by
  simp only [State.reportCompleted]
  split
  next body =>
    split
    next ended =>
      obtain ⟨none_there, inside, off⟩ := gone (by simp [TxEntry.isPage, body]) ended
      exact none_there.groupOver away inside off true
    next => exact law
  · split
    · exact PagesKept.of_away (s := s) away rfl rfl law
    · exact law
  · exact law
  · exact PagesKept.of_away (s := s) away rfl rfl law

theorem exec_attemptCompletes_pagesKept {s u : State} (taken : exec .attemptCompletes s = .next u) : PagesKept s u := by
  simp only [exec, execAttemptCompletes] at taken
  split at taken
  next burst since e rest drive entries =>
    cases taken
    intro law
    have waiting : s.tx.entries ≠ [] := by simp [entries]
    have away := law.away waiting
    generalize hp : State.mk .. = p
    have left : p.Grouped := by
      refine law.of_tail waiting ?_ ?_ ?_ <;> simp [← hp]
    have moved := left.movesOn (by simpa [← hp] using away) s.tx.groupEnds
    have offered (b : FifoEntry) : State.Grouped ((p.settleWaiting.nextEntry s.tx.groupEnds).offerBurst b) :=
      (PagesKept.of_eq : PagesKept _ _) moved
    refine State.reportCompleted_grouped (offered _) (by simpa [← hp] using away) fun page ends => ?_
    have gone : p.NoPages := by
      refine p.noPages_iff.2 ?_
      simpa [← hp, entries] using
        OneGroup.ends (State.places_of_entries entries ▸ law.one) page ((Tx.groupEnds_iff entries).1 ends)
    obtain ⟨-, inside, off⟩ := law.page_there fun none_there => by
      have other := s.noPages_iff.1 none_there e (by simp [entries])
      rw [page] at other; cases other
    have announce : p.announce = s.announce := by simp [← hp]
    obtain ⟨none_there, same⟩ := gone.movesOn (by rw [announce]; exact inside) s.tx.groupEnds
    refine ⟨?_, ?_, ?_⟩
    · simpa [State.NoPages, State.places] using none_there
    · simp [same, announce, inside]
    · simp [same, announce, off]
  next => cases taken; exact .refl s

end Sys2Proof.Machine
end

section
namespace Sys2Proof.Machine

/-! ### A command keeps the law of the announce group -/

theorem PagesKept.unlessReset {s t v : State} (started : PagesKept s t) (made : PagesKept s v) :
    PagesKept s (t.unlessReset v) := .ite (fun _ => started) fun _ => made

theorem PagesKept.orHold {s t v : State} (h : HeldChange) (started : PagesKept s t) (made : PagesKept s v) :
    PagesKept s (t.orHold h v) := .ite (fun _ => .trans started .of_eq) fun _ => made

theorem PagesKept.onPort {s t v : State} (started : PagesKept s t) (taken : PagesKept s v) : PagesKept s (t.onPort v) := by
  rcases t.onPort_cases v with takes | ⟨port, refused⟩
  · rwa [takes]
  · rw [refused]; exact .trans started .of_eq

theorem PagesKept.command {s t v : State} (started : PagesKept s t) (taken : PagesKept s v) : PagesKept s (t.command v) :=
  .onPort started (.ite (fun _ => taken) fun _ => .trans started .of_eq)

theorem PagesKept.configCommand {s t v : State} (started : PagesKept s t)
    (taken : t.node.state = .config → PagesKept s v) : PagesKept s (t.configCommand v) :=
  .command started (.ite taken fun _ => .trans started .of_eq)

theorem PagesKept.answer {s t : State} (h : PagesKept s t) (r : Result) (data : List Byte) : PagesKept s (t.answer r data) :=
  .trans h .of_eq

theorem State.advance_pagesKept (s : State) (t : Nat) : PagesKept s (s.advance t) := .of_eq

theorem State.resumeEngine_pagesKept (s : State) : PagesKept s s.resumeEngine := by
  simp only [State.resumeEngine]
  split
  · exact .of_eq
  · exact .ite (fun _ => .of_eq) fun _ => (State.enterDefer_placesKept _).pagesKept
  · exact .refl s

theorem State.queueTrigger_pagesKept {s : State} (active : s.node.state = .active) (item : TriggerItem) :
    PagesKept s (s.queueTrigger item) :=
  .ite (fun _ => .of_eq) fun _ => .answer (fun law => law.enqueue (by rw [active]; decide) rfl) _ _

/-- The hold-off runs with no group in the queue, so the remembered group joins none. -/
theorem exec_announceHoldOffExpiry_pagesKept {s u : State} (taken : exec .announceHoldOffExpiry s = .next u) : PagesKept s u := by
  simp only [exec, execAnnounceHoldOffExpiry] at taken
  split at taken
  next started running =>
    cases taken
    refine .unlessReset (.refl s) fun law => ?_
    have none_state := law.holdOff (by simp [running])
    have away : s.node.state ≠ .config := fun config => by
      obtain ⟨-, announce, -⟩ := law.config config
      simp [announce] at running
    have none_there : s.NoPages := law.outside (.inl none_state)
    split
    · exact State.NoPages.queueGroup none_there away rfl
    · exact State.NoPages.grouped none_there away (fun waits => law.waits waits) nofun
  next => cases taken; exact .refl s

theorem State.startSender_pagesKept {s : State} (away : s.node.state ≠ .config) : PagesKept s s.startSender :=
  State.askLevel_pagesKept (a := { s with sender := _ }) away rfl rfl rfl

theorem exec_joinWindowExpiry_pagesKept {s u : State} (taken : exec .joinWindowExpiry s = .next u) : PagesKept s u := by
  cases taken
  refine .unlessReset (.refl s) ?_
  split
  next started _ =>
    have active : (s.windowEnded started).revote.node.state = .active := by simp [State.windowEnded]
    have voted : PagesKept s (s.windowEnded started).revote :=
      .trans (.of_away (by simp [State.windowEnded]) (by simp [State.windowEnded]) (by simp [State.windowEnded]))
        (State.revote_pagesKept _)
    exact .ite (fun _ => voted) fun _ =>
      voted.trans (State.startSender_pagesKept (s := (s.windowEnded started).revote) (by rw [active]; decide))
  next => exact .refl s

theorem exec_levelIntervalExpiry_pagesKept {s u : State} (taken : exec .levelIntervalExpiry s = .next u) : PagesKept s u := by
  simp only [exec, execLevelIntervalExpiry] at taken
  split at taken
  next n runs =>
    cases taken
    refine .unlessReset (.refl s) (.ite (fun _ law => ?_) fun _ => .refl s)
    have away : s.node.state ≠ .config := fun config => by
      obtain ⟨-, -, -, stopped, -⟩ := law.config config
      rw [runs] at stopped; cases stopped
    exact State.checkLevel_pagesKept (s := { s with sender := _ }) away (PagesKept.of_away (s := s) away rfl rfl law)
  next => cases taken; exact .refl s

theorem exec_refreshTimerExpiry_pagesKept {s u : State} (taken : exec .refreshTimerExpiry s = .next u) : PagesKept s u := by
  simp only [exec, execRefreshTimerExpiry] at taken
  split at taken
  next started runs =>
    cases taken
    refine .unlessReset (.refl s) fun law => ?_
    have away : s.node.state ≠ .config := fun config => by
      obtain ⟨-, -, -, -, stopped⟩ := law.config config
      rw [runs] at stopped; cases stopped
    exact State.askLevel_pagesKept away rfl rfl rfl law
  next => cases taken; exact .refl s

theorem exec_staleDeadline_pagesKept {s u : State} {index : Nat} (taken : exec (.staleDeadline index) s = .next u) :
    PagesKept s u := by
  simp only [exec, execStaleDeadline] at taken
  split at taken
  next item q deadline sequence attempts begun there =>
    split at taken <;> cases taken
    · exact .refl s
    · generalize hc : (if index = 0 ∧ (s.advance deadline).tx.engine = .suspending .driving then (s.advance deadline).cutDrive
        else s.advance deadline) = cut
      have tx : cut.tx = s.tx := by rw [← hc]; split <;> simp
      have kept : PagesKept s cut := by rw [← hc]; exact .ite (fun _ => .of_eq) fun _ => .of_eq
      exact .ite (fun _ => kept) fun _ => kept.trans (State.dropStale_pagesKept (by rw [tx]; exact there) rfl item)
  next => cases taken; exact .refl s

/-- A command that comes in with no entry behind the first begun keeps the law. -/
theorem exec_pagesKept {c : Instr} {s u : State} (front : ∀ e ∈ s.tx.entries.tail, e.begun = false)
    (taken : exec c s = .next u) : PagesKept s u := by
  have stays : PagesKept s s := .refl s
  cases c with
  | powerOnReset t => cases taken; exact fun _ => State.grouped_of_empty rfl rfl ⟨rfl, rfl, rfl⟩
  | haltNChange t low =>
    simp only [exec, execHaltNChange] at taken
    split at taken <;> cases taken
    · exact .of_eq
    · exact .unlessReset .of_eq (.trans .of_eq (State.revote_pagesKept _))
  | unknownCommand => cases taken; exact .command stays (.answer stays _ _)
  | transactionEnd => cases taken; exact .ite (fun _ => .of_eq) fun _ => .of_eq
  | setStation => cases taken; exact .configCommand stays fun _ => .ite (fun _ => .of_eq) fun _ => .of_eq
  | setTiming => cases taken; exact .configCommand stays fun _ => .of_eq
  | defineChannel channel policy =>
    cases taken
    refine .configCommand stays fun _ => ?_
    cases Policy.ofCode policy.toNat
    exacts [.answer stays _ _, .ite (fun _ => .of_eq) fun _ => .of_eq]
  | defineAxis => cases taken; exact .configCommand stays fun _ => .ite (fun _ => .of_eq) fun _ => .of_eq
  | storeProfile profile stretch endMode =>
    cases taken
    refine .onPort stays (.ite (fun _ => .of_eq) fun _ => .configCommand stays fun _ => .ite (fun _ => .of_eq) fun _ => ?_)
    cases EndMode.ofCode endMode.toNat
    exacts [.answer stays _ _, .ite (fun _ => .of_eq) fun _ => .ite (fun _ => .of_eq) fun _ => .of_eq]
  | profileWriteComplete =>
    simp only [exec, execProfileWriteComplete] at taken
    split at taken <;> cases taken
    exacts [.unlessReset stays .of_eq, stays]
  | clearProfiles => cases taken; exact .configCommand stays fun _ => .of_eq
  | setStage => cases taken; exact .configCommand stays fun _ => .of_eq
  | routeAlerts cls route =>
    cases taken
    refine .configCommand stays fun _ => ?_
    cases EventClass.ofCode cls.toNat <;> cases Route.ofCode route.toNat <;> exact .of_eq
  | join t =>
    cases taken
    exact .configCommand .of_eq fun config =>
      .answer (.trans (s.advance_pagesKept t) (State.joinNow_pagesKept config)) _ _
  | leave t =>
    cases taken
    have began := s.advance_pagesKept t
    refine .command began (.ite (fun _ => .answer (.ite (fun _ => ?_) fun _ => ?_) _ _) fun _ => .answer began _ _)
    exacts [.trans began (State.leaveListening_pagesKept _),
      .trans began (State.leaveTalking_pagesKept (s := s.advance t) front)]
  | restart t =>
    cases taken
    exact .command .of_eq fun _ => State.grouped_of_empty rfl rfl ⟨rfl, rfl, rfl⟩
  | quiet => cases taken; exact .command stays (.ite (fun _ => .of_eq) fun _ => .of_eq)
  | speak t =>
    cases taken
    exact .command .of_eq (.ite (fun _ => .answer (.trans .of_eq (State.resumeEngine_pagesKept _)) _ _) fun _ => .of_eq)
  | post =>
    cases taken
    exact .onPort stays (.ite (fun _ => .of_eq) fun _ => .command stays
      (.ite (fun _ => .of_eq) fun _ => .ite (fun _ => .of_eq) fun _ => .of_eq))
  | fire t =>
    cases taken
    refine .command .of_eq (.ite (fun _ => .of_eq) fun talks => .ite (fun _ => .of_eq) fun _ => ?_)
    obtain ⟨active, -⟩ := State.activeTalking_iff.1 (by simpa using talks)
    exact (s.advance_pagesKept t).trans (State.queueTrigger_pagesKept active _)
  | cancel t =>
    cases taken
    refine .command .of_eq (.ite (fun talks => ?_) fun _ => .of_eq)
    obtain ⟨active, -⟩ := State.activeTalking_iff.1 talks
    exact (s.advance_pagesKept t).trans (State.queueTrigger_pagesKept active _)
  | askMode t mode =>
    cases taken
    refine .command .of_eq ?_
    cases Mode.ofCode mode.toNat
    exacts [.of_eq, .answer (.trans .of_eq (State.revote_pagesKept _)) _ _]
  | status => cases taken; exact .onPort stays .of_eq
  | takeOutput => cases taken; exact .command stays .of_eq
  | takeChannels => cases taken; exact .command stays .of_eq
  | peer => cases taken; exact .command stays (.ite (fun _ => .of_eq) fun _ => .of_eq)
  | takeEvents => cases taken; exact .command stays (.ite (fun _ => .of_eq) fun _ => .of_eq)
  | outputPeriodExpiry order whole =>
    cases taken
    have begun := s.finishPass_pagesKept.trans (State.beginPass_pagesKept _ order)
    exact .unlessReset stays (.ite (fun _ => begun.trans (State.finishPass_pagesKept _)) fun _ => begun)
  | silenceTimerExpiry x =>
    simp only [exec, execSilenceTimerExpiry] at taken
    split at taken <;> cases taken
    · exact .unlessReset stays (.orHold _ .of_eq (.trans (s.advance_pagesKept _) (State.losePeer_pagesKept _ x)))
    · exact stays
  | forgetTimerExpiry x =>
    simp only [exec, execForgetTimerExpiry] at taken
    split at taken <;> cases taken
    · exact .unlessReset stays (.orHold _ .of_eq (.trans (s.advance_pagesKept _) (State.forgetPeer_pagesKept _ x)))
    · exact stays
  | assemblyTimeLimit x =>
    simp only [exec, execAssemblyTimeLimit] at taken
    split at taken <;> cases taken
    exacts [.unlessReset stays .of_eq, stays]
  | announceHoldOffExpiry => exact exec_announceHoldOffExpiry_pagesKept taken
  | joinWindowExpiry => exact exec_joinWindowExpiry_pagesKept taken
  | levelIntervalExpiry => exact exec_levelIntervalExpiry_pagesKept taken
  | refreshTimerExpiry => exact exec_refreshTimerExpiry_pagesKept taken
  | staleDeadline index => exact exec_staleDeadline_pagesKept taken
  | carrierStart => cases taken; exact .ite (fun _ => .of_eq) fun _ => .of_eq
  | gapEnd =>
    simp only [exec, execGapEnd] at taken
    split at taken <;> cases taken
    · exact .ite (fun _ => .trans .of_eq (State.startAttempt_placesKept _ _).pagesKept) fun _ => .of_eq
    · exact stays
  | echoCheck heard =>
    simp only [exec, execEchoCheck] at taken
    split at taken
    · split at taken <;> cases taken
      · exact .of_eq
      · generalize hf : State.attemptFailed _ = failed
        have kept : PagesKept s failed := by rw [← hf]; exact .trans .of_eq (State.attemptFailed_pagesKept _)
        exact .ite (fun _ => .trans (kept.trans .of_eq) (State.enterFault_pagesKept _)) fun _ => kept
    · cases taken; exact stays
  | collision bit =>
    simp only [exec, execCollision] at taken
    split at taken
    · split at taken <;> cases taken
      exacts [.of_eq, stays]
    · cases taken; exact stays
  | jamEnd =>
    simp only [exec, execJamEnd] at taken
    split at taken <;> cases taken
    · exact .ite (fun _ => .trans .of_eq (State.dropCurrent_pagesKept _ _)) fun _ =>
        .trans .of_eq (State.attemptFailed_pagesKept _)
    · exact stays
  | backoffWaitEnd =>
    simp only [exec, execBackoffWaitEnd] at taken
    split at taken <;> cases taken
    exacts [.ite (fun _ => .trans (s.advance_pagesKept _) (State.enterDefer_placesKept _).pagesKept) fun _ => .of_eq, stays]
  | attemptCompletes => exact exec_attemptCompletes_pagesKept taken
  | leaveCompletion =>
    cases taken
    exact .unlessReset stays (.ite (fun _ => .orHold _ stays s.completeLeave_pagesKept) fun _ => stays)
  | runEnd t bits => cases taken; exact .ite (fun _ => .of_eq) fun _ => .of_eq
  | applyBurst => cases taken; exact .unlessReset stays (.orHold _ stays s.applyOldest_pagesKept)
  | rstNFall => cases taken; exact .of_eq

/-- Settles O8: every operation on the queue keeps its pages those of one group, and every command and every change that a pass has
held is made of such operations. -/
theorem oneAnnounceGroup : Obligations.OneAnnounceGroup := by
  intro s t tx law taken
  obtain ⟨-, front, -⟩ := tx
  rw [State.groupLaw_iff] at law ⊢
  simp only [step] at taken
  split at taken
  next c rest _ =>
    have started : PagesKept s { s with pending := rest } := .of_eq
    exact exec_pagesKept (s := { s with pending := rest }) front taken (started law)
  next =>
    cases taken
    exact s.finishPass_pagesKept law

end Sys2Proof.Machine
end

section
namespace Sys2Proof.Machine

/-! ### SET STATION (R92, R158) -/

theorem State.markSelf_rows {s u : State} {station : Nat} (rows : u.peers = s.markSelf station) {x : Nat} (first : 1 ≤ x)
    (last : x ≤ 15) : u.peerAt x =
      if x = station then { s.peerAt x with self := true, gaps := 0, losses := 0, undeclared := 0 }
      else { s.peerAt x with self := false } :=
  State.peerAt_stations rows first last

/-- Settles O31: the checks of the command, and the records read back by their numbers. -/
theorem setStationStores : Obligations.SetStationStores := by
  intro s station role seed port config
  have taken : exec (.setStation station role seed) s = .next
      (if 15 < station.toNat ∨ (station.toNat ≠ 0 ∧ Role.ofCode role.toNat = none) then s.answer .param
      else State.answer { s with
        cfg := { s.cfg with
          station := station.toNat, role := if station.toNat = 0 then none else Role.ofCode role.toNat, seed }
        peers := s.markSelf station.toNat } .ok) :=
    congrArg Host.Outcome.next (State.configCommand_open port config)
  rw [taken]
  refine ⟨fun inside named => ?_, fun bad => ?_⟩
  · have known (talks : station.toNat ≠ 0) : roleCode (Role.ofCode role.toNat) = role.toNat := by
      obtain ⟨first, last⟩ := named.resolve_left talks
      exact roleCode_ofCode first last
    have accepted : ¬(15 < station.toNat ∨ (station.toNat ≠ 0 ∧ Role.ofCode role.toNat = none)) := by
      rintro (above | ⟨talks, unnamed⟩)
      · omega
      · have code : roleCode (Role.ofCode role.toNat) = role.toNat := known talks
        rw [unnamed] at code
        obtain ⟨first, -⟩ := named.resolve_left talks
        have none_codes : 0 = role.toNat := code
        omega
    rw [if_neg accepted]
    refine ⟨_, rfl, rfl, fun listens => if_pos listens, fun talks => ?_, fun st first last other => ?_, fun first => ?_, rfl,
      rfl⟩
    · simp only [State.answer_frame, if_neg talks]
      exact known talks
    · exact (State.markSelf_rows rfl first last).trans (if_neg other)
    · exact (State.markSelf_rows rfl first inside).trans (if_pos rfl)
  · rw [if_pos]
    · rfl
    · rcases bad with above | ⟨first, unnamed⟩
      exacts [.inl above, .inr ⟨by omega, Role.ofCode_none unnamed⟩]

/-! ### A group joins the queue (R105, R119) -/

/-- Starting the first entry of the queue changes nothing of the announce record but its state. -/
theorem State.QueueIs.announce_kept {u : State} {queue : List TxEntry} {announce : Announce} (is : u.QueueIs queue announce) :
    u.announce = { announce with state := u.announce.state } := by
  rcases is with ⟨-, same⟩ | ⟨-, e, rest, e', -, -, -, -, other, page⟩
  · rw [same]
  · cases first : e.isPage0 with
    | true => exact (page first).2
    | false => rw [(other first).2]

/-- Nor does a group that is asked for, but whether it waits outside. -/
theorem State.GroupJoins.announce_kept {s u : State} {queue : List TxEntry} {announce : Announce}
    (joins : s.GroupJoins u queue announce) :
    u.announce = { announce with state := u.announce.state, waiting := u.announce.waiting } := by
  rcases Nat.lt_or_ge 8 (queue.length + max 1 ((s.ownDeclarations.length + 3) / 4)) with full | fits
  · have kept := (joins.2 full).announce_kept
    exact kept.trans (by rw [kept])
  · obtain ⟨group, -, is⟩ := joins.1 fits
    have kept := is.announce_kept
    exact kept.trans (by rw [kept])

theorem State.wake_queueIs (s : State) : s.wake.QueueIs s.tx.entries s.announce := by
  simp only [State.wake]
  split
  next turns => exact State.enterDefer_queueIs turns.2
  next => exact .inl ⟨rfl, rfl⟩

theorem State.group_fits_iff (s : State) : (groupPages s.ownDeclarations).length ≤ s.tx.free ↔
    s.tx.entries.length + max 1 ((s.ownDeclarations.length + 3) / 4) ≤ 8 := by
  rw [groupPages_length]
  show _ ≤ 8 - _ ↔ _
  omega

/-- A group that is asked for joins whole behind the entries, or waits outside. -/
theorem State.joinGroup_joins (s : State) : s.GroupJoins s.joinGroup s.tx.entries s.announce := by
  simp only [State.joinGroup]
  refine ⟨fun fits => ⟨_, s.groupPages_own, ?_⟩, fun full => ?_⟩
  · rw [if_pos (s.group_fits_iff.2 fits), ← foldl_push]
    exact State.wake_queueIs _
  · rw [if_neg fun fits => by have := s.group_fits_iff.1 fits; omega]
    exact .inl ⟨rfl, rfl⟩

theorem foldl_push_kept (l : List TxEntry) : ∀ tx : Tx, (l.foldl Tx.push tx).engine = tx.engine ∧
    (l.foldl Tx.push tx).current = tx.current ∧ (l.foldl Tx.push tx).sequence = tx.sequence := by
  induction l with
  | nil => exact fun _ => ⟨rfl, rfl, rfl⟩
  | cons e l ih => exact fun tx => ih (tx.push e)

/-- A group that joins, or waits outside, while the engine is not idle. -/
theorem State.joinGroup_eq {s : State} (busy : s.tx.engine ≠ .idle) : s.joinGroup =
    if s.tx.entries.length + max 1 ((s.ownDeclarations.length + 3) / 4) ≤ 8 then { s with
      tx := (groupPages s.ownDeclarations).foldl Tx.push s.tx, announce := { s.announce with waiting := false } }
    else { s with announce := { s.announce with waiting := true } } := by
  obtain ⟨engine, -, -⟩ := foldl_push_kept (groupPages s.ownDeclarations) s.tx
  simp only [State.joinGroup, s.group_fits_iff]
  rw [State.wake_busy (by simpa only [engine] using busy)]

/-- The engine and the line take no notice of it. -/
theorem State.joinGroup_busy {s : State} (busy : s.tx.engine ≠ .idle) :
    s.joinGroup.tx.engine = s.tx.engine ∧ s.joinGroup.line = s.line ∧ s.joinGroup.tx.sequence = s.tx.sequence := by
  obtain ⟨engine, -, sequence⟩ := foldl_push_kept (groupPages s.ownDeclarations) s.tx
  rw [State.joinGroup_eq busy]
  split
  · exact ⟨engine, rfl, sequence⟩
  · exact ⟨rfl, rfl, rfl⟩

/-- An idle engine with an empty queue turns to the group, which then fits. -/
theorem State.joinGroup_idle {s : State} (idle : s.tx.engine = .idle) (empty : s.tx.entries = []) :
    s.joinGroup.tx.engine = .working .defer ∨ s.joinGroup.tx.engine = .working .driving := by
  have few := s.ownDeclarations_length
  have fits := s.group_fits_iff.2 (by simp [empty]; omega)
  have pages : groupPages s.ownDeclarations ≠ [] := fun h => by
    have size := groupPages_length s.ownDeclarations
    simp [h] at size
    omega
  rw [State.joinGroup, if_pos fits, foldl_push_eq _ _ pages, State.wake, if_pos ⟨idle, by simp [pages]⟩]
  have turned := State.enterDefer_engine { s with
    tx := { s.tx with
      entries := s.tx.entries ++ groupPages s.ownDeclarations
      last := (s.tx.last + (groupPages s.ownDeclarations).length) % 8 }
    announce := { s.announce with waiting := false } }
  simpa only [idle, Engine.at] using turned

/-- A group that is queued: the announce state, and the group asked for (R105). -/
theorem State.queueGroup_joins (s : State) :
    s.GroupJoins s.queueGroup s.tx.entries { s.announce with state := .queued } :=
  State.joinGroup_joins { s with announce := { s.announce with state := .queued } }

theorem State.queueGroup_busy {s : State} (busy : s.tx.engine ≠ .idle) :
    s.queueGroup.tx.engine = s.tx.engine ∧ s.queueGroup.line = s.line :=
  (State.joinGroup_busy (s := { s with announce := { s.announce with state := .queued } }) busy).imp_right And.left

theorem State.queueGroup_idle {s : State} (idle : s.tx.engine = .idle) (empty : s.tx.entries = []) :
    s.queueGroup.tx.engine = .working .defer ∨ s.queueGroup.tx.engine = .working .driving :=
  State.joinGroup_idle (s := { s with announce := { s.announce with state := .queued } }) idle empty

/-! ### The Level Sender's timers (R132, R133) -/

theorem State.levelMoved_iff (s : State) : s.levelMoved = true ↔
    s.sender.lastRequest ≠ some s.output.ownRequest ∨ ∃ c v, c < 16 ∧ (s.channel c).produce = true ∧
      s.sender.posted.getD c none = some v ∧
      ∀ w, s.sender.lastSent.getD c none = some w → (s.channel c).deadband < (v - w).natAbs := by
  have moved (c : Nat) : s.channelMoved c = true ↔ ∃ v, s.sender.posted.getD c none = some v ∧
      ∀ w, s.sender.lastSent.getD c none = some w → (s.channel c).deadband < (v - w).natAbs := by
    simp only [State.channelMoved]
    cases s.sender.posted.getD c none with
    | none => simp
    | some v => cases s.sender.lastSent.getD c none <;> simp
  simp only [State.levelMoved, Bool.or_eq_true, decide_eq_true_eq, List.any_eq_true, moved, State.produced, List.mem_filter,
    List.mem_range]
  rw [or_comm]
  exact or_congr_right ⟨fun ⟨c, ⟨inside, produced⟩, v, posted, past⟩ => ⟨c, v, inside, produced, posted, past⟩,
    fun ⟨c, v, inside, produced, posted, past⟩ => ⟨c, ⟨inside, produced⟩, v, posted, past⟩⟩

/-- What the check at a level interval expiry comes to (R132). -/
theorem State.checkLevel_spec (s : State) :
    (s.levelMoved = true → s.checkLevel.sender.state = .changing ∧ s.checkLevel.sender.unchanged = 0 ∧
      s.LevelAsked s.checkLevel false) ∧
    (s.levelMoved = false →
      s.checkLevel.tx = s.tx ∧ s.checkLevel.line = s.line ∧ s.checkLevel.announce = s.announce ∧
      s.checkLevel.sender.pending = s.sender.pending ∧
      (s.sender.unchanged < s.cfg.timing.holdAfter → s.checkLevel.sender.unchanged = s.sender.unchanged + 1) ∧
      (s.cfg.timing.holdAfter ≤ s.sender.unchanged → s.checkLevel.sender.unchanged = s.sender.unchanged) ∧
      (s.sender.unchanged + 1 = s.cfg.timing.holdAfter → s.checkLevel.sender.state = .holding) ∧
      (s.sender.unchanged + 1 ≠ s.cfg.timing.holdAfter → s.checkLevel.sender.state = s.sender.state)) ∧
    s.checkLevel.sender = { s.sender with
      state := s.checkLevel.sender.state, unchanged := s.checkLevel.sender.unchanged
      pending := s.checkLevel.sender.pending } := by
  simp only [State.checkLevel]
  cases moved : s.levelMoved with
  | true =>
    have asked := State.queueLevel_sender { s with sender := { s.sender with unchanged := 0, state := .changing } } false
    refine ⟨fun _ => ⟨?_, ?_, State.queueLevel_asked false rfl rfl rfl rfl rfl⟩, nofun, ?_⟩
    all_goals rw [if_pos rfl, asked]
  | false =>
    simp only [Bool.false_eq_true, if_false]
    split
    next below =>
      refine ⟨nofun, fun _ => ⟨rfl, rfl, rfl, rfl, fun _ => rfl, fun reached => ?_, fun h => if_pos h,
        fun h => if_neg h⟩, rfl⟩
      exact absurd below (Nat.not_lt.2 reached)
    next reached =>
      exact ⟨nofun, fun _ => ⟨rfl, rfl, rfl, rfl, fun below => absurd below reached, fun _ => rfl, fun next => by omega,
        fun _ => rfl⟩, rfl⟩

theorem exec_announceHoldOffExpiry {s : State} {started : Nat} (high : s.inReset = false)
    (running : s.announce.holdOff = some started) :
    let due : State := { s.advance (started + ms s.cfg.timing.refresh) with
      announce := { s.announce with holdOff := none, remembered := false } }
    exec .announceHoldOffExpiry s = .next (if s.announce.remembered then due.queueGroup else due) := by
  simp only [exec, execAnnounceHoldOffExpiry, running, State.unlessReset_high high]
  rfl

/-- Settles O49: each timer's check or group, by what the queue makes of it. -/
theorem senderTimersRunOut : Obligations.SenderTimersRunOut := by
  intro s high
  refine ⟨fun n running => ⟨fun early => ?_, fun due => ?_⟩, fun started running => ?_, fun started running => ?_⟩
  · simp [exec, execLevelIntervalExpiry, running, State.unlessReset_high high, Nat.not_le.2 early]
  · generalize hr : { s with sender := { s.sender with levelTimer := some (n - s.cfg.timing.levelInterval) } } = restarted
    have taken : exec .levelIntervalExpiry s = .next restarted.checkLevel := by
      simp [exec, execLevelIntervalExpiry, running, State.unlessReset_high high, due, hr]
    have moved_iff : restarted.levelMoved = true ↔ _ := State.levelMoved_iff restarted
    obtain ⟨moves, rests, sender⟩ := restarted.checkLevel_spec
    refine ⟨_, taken, ?_⟩
    have frame := restarted.checkLevel_frame
    generalize restarted.checkLevel = u at *
    subst hr
    refine ⟨by rw [sender], fun moved => moves (moved_iff.2 moved), fun same still => rests ?_, ?_, ?_⟩
    · rw [← Bool.not_eq_true, moved_iff]
      rintro (changed | ⟨c, v, inside, produced, posted, past⟩)
      · exact changed same
      · obtain ⟨w, sent, within⟩ := still c v inside produced posted
        exact absurd (past w sent) (Nat.not_lt.2 within)
    · rw [sender]
    · obtain ⟨h1, h2, h3, h4, h5, h6, h7, h8, h9, h10, h11, h12, h13, h14, h15, h16, h17, h18⟩ := frame
      exact State.eq_of_fields h1 h2 h3 h4 h5 h6 h7 rfl h8 h9 rfl h10 h11 h12 h13 h14 rfl rfl h15 h16 h17 h18
  · have taken : exec .refreshTimerExpiry s = .next (State.queueLevel { s.advance (started + ms s.cfg.timing.refresh) with
        sender := { s.sender with refresh := some (s.advance (started + ms s.cfg.timing.refresh)).now } }
        s.sender.holdFlag) := by
      simp only [exec, execRefreshTimerExpiry, running, State.unlessReset_high high]
      rfl
    have flag : s.sender.holdFlag = decide (s.sender.state = .holding) := by
      cases h : s.sender.state <;> simp [LevelSender.holdFlag, h]
    rw [flag] at taken
    refine ⟨_, taken, ?_, ?_, State.queueLevel_asked _ rfl rfl rfl rfl rfl, ?_⟩
    · rw [← ms_eq]
      simp
    · rw [State.queueLevel_sender]
      simp
    · apply State.eq_of_fields <;> simp
  · have taken := exec_announceHoldOffExpiry high running
    cases asked : s.announce.remembered with
    | false =>
      simp only [asked, Bool.false_eq_true, if_false] at taken
      exact ⟨_, taken, congrArg (max s.now <| started + ·) (ms_eq _), rfl, rfl,
        fun _ => ⟨rfl, rfl, by simp [← asked]⟩, nofun, rfl⟩
    | true =>
      simp only [asked, if_true] at taken
      have joins := State.queueGroup_joins { s.advance (started + ms s.cfg.timing.refresh) with
        announce := { s.announce with holdOff := none, remembered := false } }
      have kept := joins.announce_kept
      refine ⟨_, taken, ?_, ?_, ?_, nofun, fun _ => ⟨joins, fun busy => State.queueGroup_busy busy,
        fun idle empty => State.queueGroup_idle idle empty⟩, ?_⟩
      · rw [← ms_eq]
        simp
      · exact congrArg Announce.holdOff kept
      · exact congrArg Announce.remembered kept
      · apply State.eq_of_fields <;> simp

end Sys2Proof.Machine
end

section
namespace Sys2Proof.Machine

/-! ### An attempt starts (R139, R143) -/

@[simp] theorem State.startAttempt_wait (s : State) (t : Nat) : (s.startAttempt t).line.wait = s.line.wait := by
  simp only [State.startAttempt]
  split <;> rfl

/-- An engine in DEFER is not waiting for the end of a backoff (R120). -/
@[simp] theorem State.enterDefer_wait (s : State) : s.enterDefer.line.wait = .none := by
  simp only [State.enterDefer]
  split
  · rw [State.startAttempt_wait]
  · rfl

theorem exec_gapEnd {s : State} {since : Nat} (counting : s.line.quiet = .counting since) :
    let ended : State := { s with now := max s.now (since + 64), line := { s.line with quiet := .ended } }
    exec .gapEnd s =
      .next (if s.tx.engine.work = some .defer ∧ s.line.drive = .idle then ended.startAttempt ended.now else ended) := by
  simp only [exec, execGapEnd, counting]
  rfl

theorem exec_backoffWaitEnd {s : State} {ends : Nat} (running : s.line.wait = .running ends)
    (waits : s.tx.engine.work = some .backoff) : exec .backoffWaitEnd s = .next (s.advance ends).enterDefer := by
  simp only [exec, execBackoffWaitEnd, running]
  exact congrArg Host.Outcome.next (if_pos waits)

/-- Settles O52: the gap and the wait each end where the attempt starts. -/
theorem gapAndWaitStartTheDrive : Obligations.GapAndWaitStartTheDrive := by
  refine ⟨fun s since counting => ⟨fun away => ?_, fun e rest defers free entries => ?_⟩, fun s ends running waits => ?_⟩
  · rw [exec_gapEnd counting, if_neg fun both => away.elim (· both.1) (· both.2)]
  · obtain ⟨begins, wait, quiet⟩ := State.startAttempt_begins (t := max s.now (since + 64))
      (s := { s with now := max s.now (since + 64), line := { s.line with quiet := .ended } }) entries rfl
    refine ⟨_, by rw [exec_gapEnd counting, if_pos ⟨defers, free⟩], ?_, quiet, wait, begins, ?_⟩
    · simp
    · apply State.eq_of_fields <;> simp
  · refine ⟨_, exec_backoffWaitEnd running waits, by simp,
      (State.enterDefer_turns _).congr rfl rfl rfl rfl rfl rfl, State.enterDefer_wait _, ?_⟩
    apply State.eq_of_fields <;> simp

end Sys2Proof.Machine
end

section
namespace Sys2Proof.Machine

/-! ### What the queue is, after more has joined or been told (R116, R119, R121) -/

/-- The engine moves on: it is not driving and the line is as it was with no wait, or it drives at once on a free line. -/
def State.EngineTurned (s u : State) : Prop :=
  (u.tx.engine.work ≠ some .driving ∧ u.line = { s.line with wait := .none } ∧ u.tx.sequence = s.tx.sequence) ∨
  (s.gapEnded = true ∧ s.carrier = false ∧ u.tx.engine.work = some .driving ∧
    u.line = { s.line with wait := .none, drive := u.line.drive })

section
variable {u v : State} {queue : List TxEntry} {announce : Announce}

theorem State.QueueIs.length (is : u.QueueIs queue announce) : u.tx.entries.length = queue.length := by
  rcases is with ⟨rfl, -⟩ | ⟨-, e, rest, e', rfl, entries, -⟩
  · rfl
  · simp [entries]

theorem State.QueueIs.tail (is : u.QueueIs queue announce) : u.tx.entries.tail = queue.tail := by
  rcases is with ⟨rfl, -⟩ | ⟨-, e, rest, e', rfl, entries, -⟩
  · rfl
  · simp [entries]

/-- Entries join behind a queue, and the announce record is told something. -/
theorem State.QueueIs.behind (is : v.QueueIs queue announce) {more : List TxEntry}
    (entries : u.tx.entries = v.tx.entries ++ more) (engine : u.tx.engine = v.tx.engine) {told : Announce}
    (same : u.announce = told) : u.QueueIs (queue ++ more) told := by
  rcases is with ⟨rfl, -⟩ | ⟨work, e, rest, e', rfl, first, fresh, begun, other, page⟩
  · exact .inl ⟨entries, same⟩
  · exact .inr ⟨engine ▸ work, e, rest ++ more, e', rfl, by simp [entries, first], fresh, begun,
      fun h => ⟨(other h).1, same⟩, fun h => ⟨(page h).1, by rw [same]⟩⟩

/-- The announce record is told something, and the queue stays. -/
theorem State.QueueIs.told (is : v.QueueIs queue announce) (told : Announce) :
    State.QueueIs { v with announce := told } queue told := by
  simpa using is.behind (u := { v with announce := told }) (more := []) (by simp) rfl rfl

end

/-- A group that is asked for joins behind the queue, an idle engine's being empty. -/
theorem State.joinGroup_behind {v : State} {queue : List TxEntry} {announce : Announce} (is : v.QueueIs queue announce)
    (idle : v.tx.engine = .idle → v.tx.entries = []) : v.GroupJoins v.joinGroup queue v.announce := by
  by_cases turns : v.tx.engine = .idle
  · have empty : queue = [] := List.length_eq_zero_iff.1 (by rw [← is.length, idle turns]; rfl)
    rw [empty, ← idle turns]
    exact v.joinGroup_joins
  · rw [State.joinGroup_eq turns]
    refine ⟨fun fits => ⟨_, v.groupPages_own, ?_⟩, fun full => ?_⟩
    · rw [if_pos (is.length ▸ fits)]
      exact is.behind (foldl_push _ _) (foldl_push_kept _ v.tx).1 rfl
    · rw [if_neg (Nat.not_le.2 (is.length ▸ full))]
      exact is.told _

/-- A state whose queue is what a group that is asked for makes of `t`. -/
theorem State.joinGroup_refills {t u : State} (busy : t.tx.engine ≠ .idle)
    (is : u.QueueIs t.joinGroup.tx.entries t.joinGroup.announce) : t.GroupJoins u t.tx.entries t.announce := by
  rw [State.joinGroup_eq busy] at is
  refine ⟨fun fits => ⟨_, t.groupPages_own, ?_⟩, fun full => ?_⟩
  · rw [if_pos fits, foldl_push] at is
    exact is
  · rw [if_neg (Nat.not_le.2 full)] at is
    exact is

theorem State.queueGroup_behind {v : State} {queue : List TxEntry} {announce : Announce} (is : v.QueueIs queue announce)
    (idle : v.tx.engine = .idle → v.tx.entries = []) :
    v.GroupJoins v.queueGroup queue { v.announce with state := .queued } :=
  State.joinGroup_behind (v := { v with announce := { v.announce with state := .queued } })
    (is.told _) idle

/-! ### The freed place is taken (R118, R119) -/

/-- The pending LEVEL has joined. -/
def State.heldTaken (s : State) : State :=
  { s with sender := { s.sender with pending := none }, tx := s.heldLevel.foldl Tx.push s.tx }

section
variable {s : State} (busy : s.tx.engine ≠ .idle) (room : s.tx.entries.length < 8)
include busy room

theorem State.settleWaiting_eq :
    s.settleWaiting = if s.announce.waiting then s.heldTaken.joinGroup else s.heldTaken := by
  cases held : s.sender.pending with
  | none =>
    have same : s.heldTaken = s := by
      simp only [State.heldTaken, State.heldLevel, held, List.foldl_nil]
      rw [← held]
    simp [State.settleWaiting, held, same]
  | some hold =>
    have free : s.tx.full = false := decide_eq_false (Nat.not_le.2 room)
    have taken : State.enqueue { s with sender := { s.sender with pending := none } } { body := .level s.levelPairs hold } =
        s.heldTaken := by
      rw [State.enqueue, State.wake_busy (by exact busy)]
      simp [State.heldTaken, State.heldLevel, held]
    simp only [State.settleWaiting, held, free, Bool.false_eq_true, if_false, taken]
    rfl

/-- What settling leaves as it is while the engine is at work. -/
theorem State.settleWaiting_busy : s.settleWaiting.tx.engine = s.tx.engine ∧ s.settleWaiting.line = s.line ∧
    s.settleWaiting.tx.sequence = s.tx.sequence ∧ s.settleWaiting.sender = { s.sender with pending := none } := by
  obtain ⟨engine, -, sequence⟩ := foldl_push_kept s.heldLevel s.tx
  rw [State.settleWaiting_eq busy room]
  split
  · obtain ⟨engine', line, sequence'⟩ := State.joinGroup_busy (s := s.heldTaken) (engine ▸ busy)
    exact ⟨engine'.trans engine, line, sequence'.trans sequence, by simp [State.heldTaken]⟩
  · exact ⟨engine, rfl, sequence, rfl⟩

/-- A state whose queue is what settling makes of `s` has taken the freed places. -/
theorem State.settleWaiting_refills {u : State}
    (is : u.QueueIs s.settleWaiting.tx.entries s.settleWaiting.announce) (pending : u.sender.pending = none) :
    s.Refilled u s.tx.entries := by
  obtain ⟨engine, -, -⟩ := foldl_push_kept s.heldLevel s.tx
  have entries : s.heldTaken.tx.entries = s.tx.entries ++ s.heldLevel := foldl_push _ _
  rw [State.settleWaiting_eq busy room] at is
  refine ⟨pending, fun inside => ?_, fun waits => ?_⟩
  · simp only [inside, Bool.false_eq_true, if_false, entries] at is
    exact is
  · simp only [waits, if_true] at is
    exact entries ▸ State.joinGroup_refills (engine ▸ busy) is

end

end Sys2Proof.Machine
end

section
namespace Sys2Proof.Machine

/-! ### The engine moves on (R120, R126, R139) -/

theorem Engine.work_at (w : Work) (engine : Engine) : (engine.at w).work = some w := by cases engine <;> rfl

theorem State.enterDefer_turned (s : State) : s.EngineTurned s.enterDefer := by
  by_cases free : s.gapEnded = true ∧ s.carrier = false
  · have quiet : s.line.run = none := by
      have off := free.2
      simp only [State.carrier, Bool.or_eq_false_iff, Option.isSome_eq_false_iff, Option.isNone_iff_eq_none] at off
      exact off.1
    rw [State.enterDefer_starts free.1 free.2]
    cases entries : s.tx.entries with
    | nil =>
      refine .inl ⟨?_, ?_, ?_⟩ <;> simp only [State.startAttempt, entries, Engine.work_at]
      exact nofun
    | cons e rest =>
      refine .inr ⟨free.1, free.2, ?_, ?_⟩ <;> simp only [State.startAttempt, entries, quiet, Engine.work_at]
      rfl
  · rw [State.enterDefer_waits (by simpa [imp_iff_not_or] using free)]
    exact .inl ⟨by simp [Engine.work_at], rfl, rfl⟩

/-- An idle engine that is woken with nothing to wait for. -/
theorem State.wake_turned {s : State} (idle : s.tx.engine = .idle) (wait : s.line.wait = .none) : s.EngineTurned s.wake := by
  simp only [State.wake]
  split
  · exact s.enterDefer_turned
  · exact .inl ⟨by simp [idle, Engine.work], by rw [← wait], rfl⟩

/-- The engine's turn does not read the wait it ends. -/
theorem State.EngineTurned.congr {s s' u : State} (turned : s'.EngineTurned u) (now : s'.now = s.now)
    (line : { s'.line with wait := .none } = { s.line with wait := .none }) (sequence : s'.tx.sequence = s.tx.sequence) :
    s.EngineTurned u := by
  have fields := line
  simp only [Line.mk.injEq] at fields
  obtain ⟨run, quiet, drive, -⟩ := fields
  rcases turned with ⟨off, same, number⟩ | ⟨gap, free, driving, same⟩
  · exact .inl ⟨off, same.trans line, number.trans sequence⟩
  · refine .inr ⟨?_, ?_, driving, same.trans (congrArg (fun l : Line => { l with drive := u.line.drive }) line)⟩
    · simpa only [State.gapEnded, quiet, now] using gap
    · simpa only [State.carrier, run, drive] using free

theorem State.EngineTurned.joinGroup {s v : State} (turned : s.EngineTurned v) (now : v.now = s.now) :
    s.EngineTurned v.joinGroup := by
  by_cases idle : v.tx.engine = .idle
  · rcases turned with ⟨-, line, sequence⟩ | ⟨-, -, driving, -⟩
    · have wait : v.line.wait = .none := by rw [line]
      have from_v : v.EngineTurned v.joinGroup := by
        obtain ⟨engine, -, pushed⟩ := foldl_push_kept (groupPages v.ownDeclarations) v.tx
        simp only [State.joinGroup]
        split
        · have woken := State.wake_turned (s := { v with
            tx := (groupPages v.ownDeclarations).foldl Tx.push v.tx, announce := { v.announce with waiting := false } })
            (engine.trans idle) wait
          exact woken.congr rfl rfl pushed
        · exact .inl ⟨by simp [idle, Engine.work], by rw [← wait], rfl⟩
      exact from_v.congr now (by rw [line]) sequence
    · simp [idle, Engine.work] at driving
  · obtain ⟨engine, line, sequence⟩ := State.joinGroup_busy idle
    simpa only [State.EngineTurned, engine, line, sequence] using turned

/-- The engine is at work: on an entry, or on its last before QUIET's pause. -/
def Engine.AtWork (engine : Engine) : Prop := ∃ w, engine = .working w ∨ engine = .suspending w

theorem Engine.AtWork.busy {engine : Engine} (work : engine.AtWork) : engine ≠ .idle := by
  rintro rfl
  obtain ⟨w, h | h⟩ := work <;> cases h

theorem State.nextEntry_turned {s : State} (work : s.tx.engine.AtWork) (groupOver : Bool) :
    s.EngineTurned (s.nextEntry groupOver) := by
  obtain ⟨w, at_w | at_w⟩ := work <;> simp only [State.nextEntry, at_w] <;> split
  · exact .inl ⟨nofun, rfl, rfl⟩
  · exact s.enterDefer_turned
  · exact .inl ⟨nofun, rfl, rfl⟩
  · exact s.enterDefer_turned

theorem State.nextEntry_queueIs {s : State} (work : s.tx.engine.AtWork) (groupOver : Bool) :
    (s.nextEntry groupOver).QueueIs s.tx.entries s.announce := by
  obtain ⟨w, at_w | at_w⟩ := work <;> simp only [State.nextEntry, at_w] <;> split
  next empty => exact .inl ⟨rfl, rfl⟩
  next more => exact State.enterDefer_queueIs more
  next group_over => exact .inl ⟨rfl, rfl⟩
  next goes_on =>
    by_cases empty : s.tx.entries = []
    · refine .inl ?_
      simp only [State.enterDefer, State.startAttempt, empty]
      split <;> simp
    · exact State.enterDefer_queueIs empty

/-- Where the group of the entry is over, the engine moves on as R120 and R126 have it. -/
theorem State.nextEntry_movedOn {s : State} (work : s.tx.engine.AtWork) : s.MovedOn (s.nextEntry true) := by
  obtain ⟨w, at_w | at_w⟩ := work <;> simp only [State.nextEntry, at_w]
  · refine ⟨fun _ _ => ?_, fun _ other => by simp [at_w] at other, fun other => by simp [at_w] at other⟩
    split
    next empty => exact ⟨fun _ => rfl, fun more => absurd empty more⟩
    next more =>
      have kept := (State.enterDefer_queueIs more).length
      refine ⟨fun empty => ?_, fun _ => ?_⟩
      · exact absurd (List.length_eq_zero_iff.1 (kept.symm.trans (by simp [empty]))) more
      · simpa [at_w, Engine.at] using s.enterDefer_engine
  · exact ⟨fun _ other => by simp [at_w] at other, fun _ _ => rfl, fun _ => rfl⟩

/-! ### The end of the own group (R105, R111, R112) -/

section
variable {s u : State} {queue : List TxEntry} {announce : Announce}

/-- How many entries a group that is asked for leaves in the queue. -/
theorem State.GroupJoins.length (joins : s.GroupJoins u queue announce) : u.tx.entries.length =
    if queue.length + max 1 ((s.ownDeclarations.length + 3) / 4) ≤ 8
    then queue.length + max 1 ((s.ownDeclarations.length + 3) / 4) else queue.length := by
  split
  next fits =>
    obtain ⟨group, own, is⟩ := joins.1 fits
    rw [is.length, List.length_append, own.1]
  next full => exact (joins.2 (Nat.not_le.1 full)).length

/-- It fits into an empty queue. -/
theorem State.GroupJoins.nonempty (joins : s.GroupJoins u queue announce) : u.tx.entries ≠ [] := by
  have few := s.ownDeclarations_length
  have size := joins.length
  intro empty
  rw [empty] at size
  split at size <;> simp at size <;> omega

theorem State.GroupJoins.tail (joins : s.GroupJoins u queue announce) : queue.tail <+: u.tx.entries.tail := by
  rcases Nat.lt_or_ge 8 (queue.length + max 1 ((s.ownDeclarations.length + 3) / 4)) with full | fits
  · rw [(joins.2 full).tail]
  · obtain ⟨group, -, is⟩ := joins.1 fits
    rw [is.tail]
    cases queue with
    | nil => exact List.nil_prefix
    | cons e rest => exact List.prefix_append rest group

theorem State.GroupJoins.congr {t : State} (joins : t.GroupJoins u queue announce) (cfg : t.cfg = s.cfg) :
    s.GroupJoins u queue announce := by
  simpa only [State.GroupJoins, State.OwnGroup, State.ownDeclarations_congr cfg] using joins

end

theorem State.groupOver_eq (s : State) (completed : Bool) : s.groupOver completed = State.endJoin
    (if s.announce.remembered then
      State.queueGroup { s with announce := { s.announce with state := .none, remembered := false } }
    else { s with announce := { s.announce with
      state := .none, holdOff := if completed then some s.now else s.announce.holdOff } }) := by
  simp only [State.groupOver]
  split
  · rfl
  · split <;> rfl

/-- The JOIN that the group's end is the end of (R111, R112). -/
theorem State.endJoin_spec (s : State) :
    (s.port.blocking = .join → s.endJoin.port = { s.port with blocking := .none, ready := true } ∧
      s.endJoin.node = { s.node with window := if s.node.state = .joining then some s.now else s.node.window }) ∧
    (s.port.blocking ≠ .join → s.endJoin.port = s.port ∧ s.endJoin.node = s.node) := by
  refine ⟨fun joins => ?_, fun other => ?_⟩
  · by_cases joining : s.node.state = .joining <;> simp [State.endJoin, State.endBlocking, joins, joining]
  · simp [State.endJoin, other]

/-- The same of the end of the group: what has joined the queue leaves the node and the port as they are. -/
theorem State.groupOver_session (s : State) (completed : Bool) :
    (s.port.blocking = .join → (s.groupOver completed).port = { s.port with blocking := .none, ready := true } ∧
      (s.groupOver completed).node =
        { s.node with window := if s.node.state = .joining then some s.now else s.node.window }) ∧
    (s.port.blocking ≠ .join → (s.groupOver completed).port = s.port ∧ (s.groupOver completed).node = s.node) := by
  obtain ⟨x, ended, port, node, now⟩ : ∃ x : State, s.groupOver completed = x.endJoin ∧
      x.port = s.port ∧ x.node = s.node ∧ x.now = s.now := by
    refine ⟨_, s.groupOver_eq completed, ?_⟩
    split <;> simp
  rw [ended, ← port, ← node, ← now]
  exact x.endJoin_spec

theorem State.endJoin_queueIs (s : State) (queue : List TxEntry) (announce : Announce) :
    s.endJoin.QueueIs queue announce ↔ s.QueueIs queue announce := by
  simp only [State.QueueIs, State.endJoin_frame]

theorem State.EngineTurned.groupOver {s v : State} (turned : s.EngineTurned v) (now : v.now = s.now) (completed : Bool) :
    s.EngineTurned (v.groupOver completed) := by
  rw [State.groupOver_eq]
  simp only [State.EngineTurned, State.endJoin_frame]
  split
  · exact State.EngineTurned.joinGroup (v := { v with announce := _ }) turned now
  · exact turned

/-- An engine that has moved on from its entry is idle only with nothing queued. -/
theorem State.MovedOn.idle {s v : State} (moved : s.MovedOn v) (work : s.tx.engine.AtWork) (idle : v.tx.engine = .idle) :
    v.tx.entries = [] := by
  by_contra more
  obtain ⟨w, at_w | at_w⟩ := work
  · rcases (moved.1 w at_w).2 more with h | h <;> rw [idle] at h <;> cases h
  · have h := moved.2.1 w at_w
    rw [idle] at h
    cases h

theorem State.MovedOn.groupOver {s v : State} (moved : s.MovedOn v) (work : s.tx.engine.AtWork) (completed : Bool) :
    s.MovedOn (v.groupOver completed) := by
  rw [State.groupOver_eq]
  simp only [State.MovedOn, State.endJoin_frame]
  split
  · have joins := State.queueGroup_joins { v with announce := { v.announce with state := .none, remembered := false } }
    refine ⟨fun w at_w => ⟨fun empty => absurd empty joins.nonempty, fun _ => ?_⟩, fun w at_w => ?_, fun paused => ?_⟩
    · by_cases empty : v.tx.entries = []
      · exact State.queueGroup_idle (by exact (moved.1 w at_w).1 empty) empty
      · have turned := (moved.1 w at_w).2 empty
        have kept := State.queueGroup_busy (s := { v with announce := { v.announce with state := .none, remembered := false } })
          fun idle => empty (moved.idle work idle)
        rwa [kept.1]
    · have paused := moved.2.1 w at_w
      exact (State.queueGroup_busy fun idle => by rw [show v.tx.engine = _ from idle] at paused; cases paused).1.trans paused
    · have paused := moved.2.2 paused
      exact (State.queueGroup_busy fun idle => by rw [show v.tx.engine = _ from idle] at paused; cases paused).1.trans paused
  · exact moved

theorem State.groupOver_ends {s v : State} {left : List TxEntry} (is : v.QueueIs (left ++ s.heldLevel) s.announce)
    (idle : v.tx.engine = .idle → v.tx.entries = []) (pending : v.sender.pending = none) (cfg : v.cfg = s.cfg)
    (port : v.port = s.port) (node : v.node = s.node) (completed : Bool) :
    s.GroupEnded (v.groupOver completed) left completed := by
  have kept := is.announce_kept
  have asked : v.announce.remembered = s.announce.remembered := by rw [kept]
  have off : v.announce.holdOff = s.announce.holdOff := by rw [kept]
  have waiting : v.announce.waiting = s.announce.waiting := by rw [kept]
  have now : (v.groupOver completed).now = v.now := by simp
  refine ⟨by simp [pending], fun none_asked => ?_, fun more => ?_, ?_⟩
  · rw [now, State.groupOver_eq, if_neg (by simp [asked, none_asked]), State.endJoin_queueIs]
    have told := is.told { v.announce with state := .none, holdOff := if completed then some v.now else v.announce.holdOff }
    simpa only [off, asked, waiting] using told
  · rw [State.groupOver_eq, if_pos (asked.trans more)]
    have joins := State.queueGroup_behind
      (v := { v with announce := { v.announce with state := .none, remembered := false } }) (is.told _) idle
    simpa only [State.GroupJoins, State.endJoin_queueIs, off, waiting] using joins.congr cfg
  · rw [now, ← port, ← node]
    exact v.groupOver_session completed

end Sys2Proof.Machine
end

section
namespace Sys2Proof.Machine

/-! ### The queue takes what waited, and the engine moves on (R118 to R120, R126) -/

theorem State.MovedOn.congr {s s' u : State} (moved : s'.MovedOn u) (engine : s'.tx.engine = s.tx.engine) : s.MovedOn u := by
  simpa only [State.MovedOn, engine] using moved

/-- What settling and moving on make of a queue with a free place, from an engine at work. -/
theorem State.movesOn_spec {s : State} (work : s.tx.engine.AtWork) (room : s.tx.entries.length < 8) (groupOver : Bool) :
    s.Refilled (s.settleWaiting.nextEntry groupOver) s.tx.entries ∧ s.EngineTurned (s.settleWaiting.nextEntry groupOver) ∧
    (groupOver = true → s.MovedOn (s.settleWaiting.nextEntry groupOver)) ∧
    (s.settleWaiting.nextEntry groupOver).sender = { s.sender with pending := none } := by
  obtain ⟨engine, line, sequence, sender⟩ := State.settleWaiting_busy work.busy room
  have work' : s.settleWaiting.tx.engine.AtWork := engine ▸ work
  have told : (s.settleWaiting.nextEntry groupOver).sender = { s.sender with pending := none } := by simp [sender]
  refine ⟨?_, ?_, ?_, told⟩
  · exact State.settleWaiting_refills work.busy room (State.nextEntry_queueIs work' groupOver) (by rw [told])
  · exact (State.nextEntry_turned work' groupOver).congr (by simp) (by rw [line]) sequence
  · rintro rfl
    exact (State.nextEntry_movedOn work').congr engine

theorem State.EngineTurned.line_kept {s u : State} (turned : s.EngineTurned u) :
    u.line = { s.line with wait := .none, drive := u.line.drive } := by
  rcases turned with ⟨-, line, -⟩ | ⟨-, -, -, line⟩
  · rw [line]
  · exact line

/-- On a line that is not free, or with the gap still to come, the engine does not drive. -/
theorem State.EngineTurned.waits {s u : State} (turned : s.EngineTurned u) (held : s.gapEnded = false ∨ s.carrier = true) :
    u.tx.engine.work ≠ some .driving ∧ u.line = { s.line with wait := .none } ∧ u.tx.sequence = s.tx.sequence := by
  rcases turned with waits | ⟨gap, free, -⟩
  · exact waits
  · rw [gap, free] at held
    rcases held with h | h <;> cases h

/-! ### The drop of the current entry (R124, R125) -/

/-- The current entry `e` is dropped with this record, and all that a drop brings is made. -/
def State.dropFront (s : State) (e : TxEntry) (record : Record) : State :=
  ((s.dropMade (e.leaves s.tx) record).settleWaiting.nextEntry true).dropTold e

theorem Tx.pop_kept (tx : Tx) : tx.pop.engine = tx.engine ∧ tx.pop.sequence = tx.sequence := by
  simp only [Tx.pop]
  split <;> exact ⟨rfl, rfl⟩

theorem popLaterPages_kept (n : Nat) (tx : Tx) :
    (Tx.popLaterPages n tx).engine = tx.engine ∧ (Tx.popLaterPages n tx).sequence = tx.sequence := by
  induction n generalizing tx with
  | zero => exact ⟨rfl, rfl⟩
  | succ n ih =>
    simp only [Tx.popLaterPages]
    split
    · split
      · simpa only [tx.pop_kept] using ih tx.pop
      · exact ⟨rfl, rfl⟩
    · exact ⟨rfl, rfl⟩

/-- The entries that leave take nothing of the engine with them. -/
theorem TxEntry.leaves_kept (e : TxEntry) (tx : Tx) :
    (e.leaves tx).engine = tx.engine ∧ (e.leaves tx).sequence = tx.sequence := by
  simp only [TxEntry.leaves]
  split
  · simpa only [tx.pop_kept] using popLaterPages_kept 3 tx.pop
  · exact tx.pop_kept

@[simp] theorem State.dropTold_frame (s : State) (e : TxEntry) :
    (s.dropTold e).pending = s.pending ∧ (s.dropTold e).now = s.now ∧ (s.dropTold e).inReset = s.inReset ∧
    (s.dropTold e).haltLow = s.haltLow ∧ (s.dropTold e).strobes = s.strobes ∧ (s.dropTold e).cfg = s.cfg ∧
    (s.dropTold e).store = s.store ∧ (s.dropTold e).fifo = s.fifo ∧ (s.dropTold e).peers = s.peers ∧
    (s.dropTold e).sources = s.sources ∧ (s.dropTold e).players = s.players ∧ (s.dropTold e).merge = s.merge ∧
    (s.dropTold e).output = s.output ∧ (s.dropTold e).monitor = s.monitor ∧ (s.dropTold e).sender = s.sender ∧
    (s.dropTold e).counters = s.counters ∧ (s.dropTold e).events = s.events := by
  simp only [State.dropTold]
  split <;> simp

@[simp] theorem State.dropFront_frame (s : State) (e : TxEntry) (record : Record) :
    (s.dropFront e record).pending = s.pending ∧ (s.dropFront e record).now = s.now ∧
    (s.dropFront e record).inReset = s.inReset ∧ (s.dropFront e record).haltLow = s.haltLow ∧
    (s.dropFront e record).strobes = s.strobes ∧ (s.dropFront e record).cfg = s.cfg ∧
    (s.dropFront e record).store = s.store ∧ (s.dropFront e record).fifo = s.fifo ∧
    (s.dropFront e record).peers = s.peers ∧ (s.dropFront e record).sources = s.sources ∧
    (s.dropFront e record).players = s.players ∧ (s.dropFront e record).merge = s.merge ∧
    (s.dropFront e record).output = s.output ∧ (s.dropFront e record).monitor = s.monitor ∧
    (s.dropFront e record).counters = { s.counters with txDropped := min 65535 (s.counters.txDropped + 1) } ∧
    (s.dropFront e record).events = s.events.offer record := by
  simp [State.dropFront, State.dropMade]

/-- The drop of a page ends its group, and the drop of a BYE makes LEAVE completion due. -/
theorem State.dropTold_page (s : State) {e : TxEntry} (page : e.isPage = true) : s.dropTold e = s.groupOver false := by
  cases body : e.body <;> simp [TxEntry.isPage, State.dropTold, body] at page ⊢

theorem State.dropTold_other (s : State) {e : TxEntry} (other : e.isPage = false) : s.dropTold e =
    { s with node := { s.node with leaveDue := s.node.leaveDue || decide (e.body = .bye) } } := by
  cases body : e.body <;> simp [TxEntry.isPage, State.dropTold, body] at other ⊢

section
variable {s : State} {e : TxEntry} {rest : List TxEntry} (entries : s.tx.entries = e :: rest) (room : rest.length < 8)
  (work : s.tx.engine.AtWork) (record : Record)
include entries room work

/-- What stands in the queue and in the engine once the entry has left, before its owner is told. -/
theorem State.dropFront_spec :
    let made := s.dropMade (e.leaves s.tx) record
    let left := made.settleWaiting.nextEntry true
    made.Refilled left (e.leaves s.tx).entries ∧ s.EngineTurned left ∧ s.MovedOn left ∧
      left.sender = { s.sender with pending := none } := by
  obtain ⟨engine, sequence⟩ := e.leaves_kept s.tx
  have fewer : (s.dropMade (e.leaves s.tx) record).tx.entries.length < 8 := by
    have suffix := (e.leaves_suffix s.tx).length_le
    rw [entries] at suffix
    exact Nat.lt_of_le_of_lt suffix room
  obtain ⟨refilled, turned, moved, sender⟩ := State.movesOn_spec (s := s.dropMade (e.leaves s.tx) record) (engine ▸ work)
    fewer true
  exact ⟨refilled, turned.congr rfl rfl sequence, (moved rfl).congr engine, sender⟩

theorem State.dropFront_turned : s.EngineTurned (s.dropFront e record) := by
  obtain ⟨-, turned, -, -⟩ := State.dropFront_spec entries room work record
  rw [State.dropFront]
  cases page : e.isPage with
  | true =>
    rw [State.dropTold_page _ page]
    exact turned.groupOver (by simp [State.dropMade]) false
  | false =>
    rw [State.dropTold_other _ page]
    exact turned

theorem State.dropFront_dropped : s.Dropped (s.dropFront e record) e rest record := by
  have line := (State.dropFront_turned entries room work record).line_kept
  obtain ⟨refilled, -, moved, sender⟩ := State.dropFront_spec entries room work record
  refine ⟨by simp, by simp, by rw [line], by rw [line], ?_, ?_, fun left behind => ⟨fun other => ?_, fun page inside => ?_⟩⟩
  · simp only [State.dropFront, State.dropTold_frame, sender]
  · cases page : e.isPage with
    | true =>
      rw [State.dropFront, State.dropTold_page _ page]
      exact moved.groupOver work false
    | false =>
      rw [State.dropFront, State.dropTold_other _ page]
      exact moved
  · rw [behind.entries entries] at refilled
    rw [State.dropFront, State.dropTold_other _ other]
    exact ⟨refilled, by simp [State.dropMade], by simp [State.dropMade]⟩
  · rw [behind.entries entries] at refilled
    rw [State.dropFront, State.dropTold_page _ page]
    refine State.groupOver_ends (refilled.2.1 inside) (moved.idle work) (by rw [sender]) ?_ ?_ ?_ false
    all_goals simp [State.dropMade]

end

/-! ### A failed attempt (R123, R125) -/

/-- The attempts counted at an entry that is kept after a failure: the twelfth starts again (R123). -/
def TxEntry.nextAttempts (e : TxEntry) : Nat := if e.attempts + 1 < 12 then e.attempts + 1 else 0

theorem State.dropStale_front (s : State) {e : TxEntry} {item : TriggerItem} {queued deadline : Nat}
    (body : e.body = .trigger item queued deadline) :
    s.dropStale 0 item = s.dropFront e (s.staleRecord item) := by
  simp only [State.dropStale_eq, State.dropFront, State.dropTold, body, TxEntry.leaves, TxEntry.hasLaterPages]
  rfl

section
variable {s : State} {e : TxEntry} {rest : List TxEntry} (entries : s.tx.entries = e :: rest)
include entries

theorem State.dropCurrent_front (reason : TxReason) :
    s.dropCurrent reason = s.dropFront e (s.txDroppedRecord e reason) := State.dropCurrent_eq entries reason

/-- What the Transmit Queue makes of a failed attempt: the record of the drop says whether there is one. -/
theorem State.attemptFailed_eq : s.attemptFailed = match s.failureRecord e false s.now with
    | none => s.keepForRetry { e with attempts := e.nextAttempts }
    | some record => s.dropFront e record := by
  have retried : (if e.attempts + 1 < 12 then s.keepForRetry { e with attempts := e.attempts + 1 }
      else if s.cfg.timing.persist then s.keepForRetry { e with attempts := 0 } else s.dropCurrent .excessive) =
      match if e.attempts + 1 < 12 ∨ s.cfg.timing.persist = true then none else some (s.txDroppedRecord e .excessive) with
      | none => s.keepForRetry { e with attempts := e.nextAttempts }
      | some record => s.dropFront e record := by
    rw [State.dropCurrent_front entries]
    by_cases below : e.attempts + 1 < 12
    · simp [below, TxEntry.nextAttempts]
    · cases persist : s.cfg.timing.persist <;> simp [below, TxEntry.nextAttempts]
  cases body : e.body with
  | trigger item queued deadline =>
    rw [State.attemptFailed_trigger entries body, retried, State.dropStale_front s body]
    simp only [State.failureRecord, body, Bool.false_eq_true, if_false]
    split <;> rfl
  | _ =>
    rw [State.attemptFailed_other entries (by simp [body]), retried]
    simp only [State.failureRecord, body]
    rfl

end

end Sys2Proof.Machine
end

section
namespace Sys2Proof.Machine

/-! ### Off the line (R138, R140) -/

/-- At the instant `t` the node has left the line, with its receive path open. -/
def State.offTheLine (s : State) (t : Nat) : State :=
  { s with
    now := max s.now t
    line := { s.line with drive := .idle, quiet := if s.line.run = none then .counting (max s.now t) else s.line.quiet } }

theorem State.released_eq {s : State} (listens : s.line.receiveOpen = true) (t : Nat) :
    { s with now := max s.now t, line := s.line.released (max s.now t) } = s.offTheLine t := by
  cases run : s.line.run <;> simp [State.offTheLine, Line.released, listens, run]

/-- The gap counts again from there, or others hold the line. -/
theorem State.offTheLine_held (s : State) (t : Nat) :
    (s.offTheLine t).gapEnded = false ∨ (s.offTheLine t).carrier = true := by
  simp only [State.offTheLine, State.gapEnded, State.carrier]
  cases run : s.line.run with
  | none =>
    have runs : max s.now t < max s.now t + 64 := by omega
    exact .inl (decide_eq_false (Nat.not_le.2 runs))
  | some r => simp

/-! ### Kept for a retry (R123, R143) -/

/-- Where the engine cannot drive at once, a kept entry waits out the slots drawn. -/
theorem State.keepForRetry_held {s : State} {e kept : TxEntry} {rest : List TxEntry} (entries : s.tx.entries = e :: rest)
    (held : s.gapEnded = false ∨ s.carrier = true) :
    let slots := drawSlots (lfsrStep s.line.backoffReg) kept.attempts
    s.keepForRetry kept = { s with
      tx := { s.tx with entries := kept :: rest, engine := s.tx.engine.at (if slots = 0 then .defer else .backoff) }
      line := { s.line with
        backoffReg := lfsrStep s.line.backoffReg
        wait := if slots = 0 then .none else .running (s.now + 128 * slots) } } := by
  intro slots
  by_cases none_drawn : slots = 0
  · rw [State.keepForRetry_defers entries none_drawn, State.enterDefer_waits (by exact held)]
    simp only [Engine.at_at, none_drawn, if_true]
  · rw [State.keepForRetry_waits entries none_drawn]
    simp only [none_drawn, if_false, Nat.mul_comm 128]
    rfl

/-! ### The jam (R140, R141) -/

theorem jamPattern_bit (i : Nat) : jamPattern[i]? = if i < 32 then some (decide (i % 2 = 1)) else none := by
  have alternates : jamPattern = (List.range 32).map fun i => decide (i % 2 = 1) := by decide
  rw [alternates, List.getElem?_map]
  split
  next inside => simp [List.getElem?_range inside]
  next outside => simp [List.getElem?_eq_none (show (List.range 32).length ≤ i by simpa using outside)]

theorem withinWindow_iff (window bit : Nat) : withinWindow window bit = true ↔ bit < 40 + 8 * window := by
  have within : withinWindow window bit = true ↔ bit < 40 ∨ (bit - 40) / 8 < window := by
    rw [withinWindow, Bool.or_eq_true, decide_eq_true_iff, decide_eq_true_iff]
    rfl
  rw [within]
  omega

theorem exec_jamEnd {s : State} {ends : Nat} {late : Bool} {e : TxEntry} {rest : List TxEntry}
    (jams : s.line.drive = .jamming ends late) (listens : s.line.receiveOpen = true) (entries : s.tx.entries = e :: rest) :
    exec .jamEnd s = .next (match s.failureRecord e late (max s.now ends) with
      | none => (s.offTheLine ends).countCollision.keepForRetry { e with attempts := e.nextAttempts }
      | some record => (s.offTheLine ends).countCollision.dropFront e record) := by
  have taken : exec .jamEnd s = .next (if late then (s.offTheLine ends).countCollision.dropCurrent .late
      else (s.offTheLine ends).countCollision.attemptFailed) := by
    rw [← State.released_eq listens]
    simp only [exec, execJamEnd, jams]
    rfl
  rw [taken]
  cases late with
  | true => exact congrArg Host.Outcome.next (State.dropCurrent_front (s := (s.offTheLine ends).countCollision) entries .late)
  | false => exact congrArg Host.Outcome.next (State.attemptFailed_eq (s := (s.offTheLine ends).countCollision) entries)

/-- Settles O54: the bit settles the window, and the record that the failure comes to settles the entry. -/
theorem collisionJamsAndBacksOff : Obligations.CollisionJamsAndBacksOff := by
  refine ⟨fun s b since bit drives inside => ?_, fun s ends late e rest jams listens entries room work => ?_⟩
  · have taken : exec (.collision bit) s = .next { s with
        now := max s.now (since + bit + 1)
        line := { s.line with
          drive := .jamming (max s.now (since + bit + 1) + 32) (!withinWindow s.cfg.timing.window bit)
          echoFails := if bit < 40 then 0 else s.line.echoFails } } := by
      simp only [exec, execCollision, drives, if_pos inside]
      rfl
    refine ⟨_, _, taken, rfl, ?_, fun i => ?_⟩
    · rw [Bool.not_eq_true', ← Bool.not_eq_true, withinWindow_iff, Nat.not_lt]
    · rw [← jamPattern_bit]
      have shift : max s.now (since + bit + 1) + i + 32 - (max s.now (since + bit + 1) + 32) = i := by omega
      simp only [Line.drivenAt, Config.jamBits, shift]
      exact if_pos (by omega)
  · have held : (s.offTheLine ends).countCollision.gapEnded = false ∨ (s.offTheLine ends).countCollision.carrier = true :=
      s.offTheLine_held ends
    have taken := exec_jamEnd jams listens entries
    intro dropped
    cases failed : s.failureRecord e late (max s.now ends) with
    | none =>
      have kept := State.keepForRetry_held (s := (s.offTheLine ends).countCollision) entries held
        (kept := { e with attempts := e.nextAttempts })
      simp only [failed] at taken
      refine ⟨_, taken.trans (congrArg Host.Outcome.next kept), rfl, rfl, rfl, ?_,
        fun _ => ⟨rfl, rfl, rfl, rfl, rfl⟩, ?_, rfl⟩
      · rw [Engine.work_at]
        split <;> exact nofun
      · intro record same
        rw [show dropped = none from failed] at same
        cases same
    | some record =>
      simp only [failed] at taken
      have turned := State.dropFront_turned (s := (s.offTheLine ends).countCollision) entries room work record
      have made := State.dropFront_dropped (s := (s.offTheLine ends).countCollision) entries room work record
      obtain ⟨waits, line, -⟩ := turned.waits held
      refine ⟨_, taken, ?_, ?_, ?_, waits, ?_, ?_, ?_⟩
      · simp [State.offTheLine, State.countCollision]
      · rw [line]; simp [State.offTheLine, State.countCollision]
      · simp [State.offTheLine, State.countCollision]; rfl
      · intro same
        rw [show dropped = some record from failed] at same
        cases same
      · intro _ same
        rw [show dropped = some record from failed] at same
        cases same
        exact made
      · apply State.eq_of_fields <;> simp [State.offTheLine, State.countCollision]

end Sys2Proof.Machine
end

section
namespace Sys2Proof.Machine

/-! ### The entry that has been driven to its end leaves (R122, R140, R146) -/

theorem State.wake_current (s : State) : s.wake.tx.current = s.tx.current := by
  simp only [State.wake]
  split
  · exact s.enterDefer_positions.1
  · rfl

theorem State.joinGroup_current (s : State) : s.joinGroup.tx.current = s.tx.current := by
  simp only [State.joinGroup]
  split
  · exact (State.wake_current _).trans (foldl_push_kept _ _).2.1
  · rfl

theorem State.settleWaiting_current (s : State) : s.settleWaiting.tx.current = s.tx.current := by
  have joins (t : State) : (if t.announce.waiting then t.joinGroup else t).tx.current = t.tx.current := by
    split
    exacts [t.joinGroup_current, rfl]
  simp only [State.settleWaiting]
  rw [joins]
  split
  · split
    · rfl
    · exact State.wake_current _
  · rfl

theorem State.groupOver_current (s : State) (completed : Bool) : (s.groupOver completed).tx.current = s.tx.current := by
  rw [State.groupOver_eq]
  simp only [State.endJoin_frame]
  split
  · exact State.joinGroup_current _
  · rfl

theorem State.Refilled.length_le {s u : State} {left : List TxEntry} (refilled : s.Refilled u left) :
    left.length ≤ u.tx.entries.length := by
  obtain ⟨-, inside, waits⟩ := refilled
  cases waiting : s.announce.waiting with
  | false =>
    rw [(inside waiting).length, List.length_append]
    omega
  | true =>
    rw [(waits waiting).length, List.length_append]
    split <;> omega

/-- While its group goes on, the engine waits in DEFER for the next page where it cannot drive at once. -/
theorem State.nextEntry_goesOn {s : State} (work : s.tx.engine.AtWork) (held : s.gapEnded = false ∨ s.carrier = true)
    (more : (s.nextEntry false).tx.entries ≠ []) : (s.nextEntry false).tx.engine = s.tx.engine.at .defer := by
  have waits : s.enterDefer.tx.engine = s.tx.engine.at .defer := by rw [State.enterDefer_waits held]
  obtain ⟨w, at_w | at_w⟩ := work <;> simp only [State.nextEntry, at_w] at more waits ⊢
  · split at more
    next empty => exact absurd empty more
    next there => rw [if_neg there, waits]
  · simpa using waits

theorem State.reportCompleted_page (s : State) {e : TxEntry} (page : e.isPage = true) (groupEnds : Bool) :
    s.reportCompleted e groupEnds = if groupEnds then s.groupOver true else s := by
  cases body : e.body <;> simp [TxEntry.isPage, State.reportCompleted, body] at page ⊢

theorem State.reportCompleted_other (s : State) {e : TxEntry} (other : e.isPage = false) (groupEnds : Bool) :
    s.reportCompleted e groupEnds = { s with
      sender := { s.sender with refresh := if e.isLevel then s.sender.refresh.map fun _ => s.now else s.sender.refresh }
      node := { s.node with leaveDue := s.node.leaveDue || decide (e.body = .bye) } } := by
  cases body : e.body with
  | page => simp [TxEntry.isPage, body] at other
  | level =>
    cases running : s.sender.refresh <;> simp [State.reportCompleted, TxEntry.isLevel, body, running]
    rw [← running]
  | trigger => simp [State.reportCompleted, TxEntry.isLevel, body]
  | bye => simp [State.reportCompleted, TxEntry.isLevel, body]

theorem State.offerBurst_spec (s : State) (f : FifoEntry) :
    (s.fifo.length < 4 → (s.offerBurst f).fifo = s.fifo ++ [f] ∧ (s.offerBurst f).counters = s.counters ∧
      (s.offerBurst f).events = s.events) ∧
    (4 ≤ s.fifo.length → (s.offerBurst f).fifo = s.fifo ∧
      (s.offerBurst f).counters = { s.counters with rxOverruns := min 65535 (s.counters.rxOverruns + 1) } ∧
      (s.offerBurst f).events = s.events.offer {
        kind := .rxOverrun, count := s.merge.periodCount, station := some f.burst.source
        detail := some f.burst.payload.kind, value := some (f.burst.seq : Int) }) := by
  refine ⟨fun room => ?_, fun full => ?_⟩
  · rw [State.offerBurst, if_pos (show s.fifo.length < Config.fifoPlaces from room)]
    exact ⟨rfl, rfl, rfl⟩
  · rw [State.offerBurst, if_neg (show ¬s.fifo.length < Config.fifoPlaces from Nat.not_lt.2 full)]
    exact ⟨rfl, rfl, rfl⟩

theorem State.offerBurst_eq (s : State) (f : FifoEntry) : s.offerBurst f = { s with
    fifo := (s.offerBurst f).fifo, counters := (s.offerBurst f).counters, events := (s.offerBurst f).events } := by
  apply State.eq_of_fields <;> simp

/-- At the instant `t` the node has left the line and the current entry the queue. -/
def State.entryGone (s : State) (t : Nat) : State := { s.offTheLine t with tx := s.tx.pop }

/-- What stands in the queue and in the engine once the entry has left, before its departure is reported. -/
theorem State.entryGone_spec {s : State} {e : TxEntry} {rest : List TxEntry} (entries : s.tx.entries = e :: rest)
    (room : rest.length < 8) (work : s.tx.engine.AtWork) (t : Nat) :
    let left := (s.entryGone t).settleWaiting.nextEntry s.tx.groupEnds
    s.Refilled left rest ∧ (s.offTheLine t).EngineTurned left ∧ left.tx.current = (s.tx.current + 1) % 8 ∧
      left.sender = { s.sender with pending := none } ∧ (s.tx.groupEnds = true → s.MovedOn left) ∧
      (s.tx.groupEnds = false → left.tx.engine = s.tx.engine.at .defer) := by
  have engine : (s.entryGone t).tx.engine = s.tx.engine := s.tx.pop_kept.1
  have number : (s.entryGone t).tx.sequence = s.tx.sequence := s.tx.pop_kept.2
  have behind : (s.entryGone t).tx.entries = rest := by simp [State.entryGone, entries]
  have work' : (s.entryGone t).tx.engine.AtWork := engine ▸ work
  have room' : (s.entryGone t).tx.entries.length < 8 := behind ▸ room
  have held : (s.entryGone t).gapEnded = false ∨ (s.entryGone t).carrier = true := s.offTheLine_held t
  obtain ⟨refilled, turned, moved, sender⟩ := State.movesOn_spec work' room' s.tx.groupEnds
  rw [behind] at refilled
  refine ⟨refilled, turned.congr rfl rfl number, ?_, sender, fun ends => (moved ends).congr engine, fun goes_on => ?_⟩
  · rw [(State.nextEntry_positions _ _).1, State.settleWaiting_current]
    simp [State.entryGone, Tx.pop, entries, Config.txPlaces]
  · obtain ⟨settled_engine, settled_line, -, -⟩ := State.settleWaiting_busy work'.busy room'
    rw [goes_on] at refilled ⊢
    have there : rest ≠ [] := by
      rintro rfl
      simp [Tx.groupEnds, entries] at goes_on
    have size := refilled.length_le
    rw [State.nextEntry_goesOn (settled_engine ▸ work'), settled_engine, engine]
    · simpa only [State.gapEnded, State.carrier, settled_line, State.settleWaiting_frame] using held
    · intro empty
      rw [empty] at size
      exact there (List.length_eq_zero_iff.1 (Nat.le_zero.1 size))

/-- The node has driven the burst `b` to its end at the instant `t`: the entry has left, what waited has joined, the engine has
moved on, and the own copy has been offered to the Receive FIFO. -/
def State.entryDone (s : State) (b : Burst) (t : Nat) : State :=
  ((s.entryGone t).settleWaiting.nextEntry s.tx.groupEnds).offerBurst { burst := b, endInstant := max s.now t, own := true }

theorem exec_attemptCompletes {s : State} {b : Burst} {since : Nat} {e : TxEntry} {rest : List TxEntry}
    (drives : s.line.drive = .driving b since) (entries : s.tx.entries = e :: rest) (listens : s.line.receiveOpen = true) :
    exec .attemptCompletes s = .next ((s.entryDone b (since + b.lineBits)).reportCompleted e s.tx.groupEnds) := by
  have now : ((s.entryGone (since + b.lineBits)).settleWaiting.nextEntry s.tx.groupEnds).now =
      max s.now (since + b.lineBits) := by simp [State.entryGone, State.offTheLine]
  rw [State.entryDone, ← now]
  simp only [exec, execAttemptCompletes, drives, entries, State.entryGone]
  rw [← State.released_eq listens]
  rfl

theorem State.entryDone_frame (s : State) (b : Burst) (t : Nat) : s.entryDone b t = { s with
    now := max s.now t, line := (s.entryDone b t).line, fifo := (s.entryDone b t).fifo
    announce := (s.entryDone b t).announce, tx := (s.entryDone b t).tx, sender := (s.entryDone b t).sender
    counters := (s.entryDone b t).counters, events := (s.entryDone b t).events } := by
  apply State.eq_of_fields <;> simp [State.entryDone, State.entryGone, State.offTheLine]

/-- The own copy joins the Receive FIFO, or is an overrun (R146). -/
theorem State.entryDone_copy (s : State) (b : Burst) (t : Nat) :
    (s.fifo.length < 4 → (s.entryDone b t).fifo = s.fifo ++ [{ burst := b, endInstant := max s.now t, own := true }] ∧
      (s.entryDone b t).counters = s.counters ∧ (s.entryDone b t).events = s.events) ∧
    (4 ≤ s.fifo.length → (s.entryDone b t).fifo = s.fifo ∧
      (s.entryDone b t).counters = { s.counters with rxOverruns := min 65535 (s.counters.rxOverruns + 1) } ∧
      (s.entryDone b t).events = s.events.offer {
        kind := .rxOverrun, count := s.merge.periodCount, station := some b.source, detail := some b.payload.kind
        value := some (b.seq : Int) }) := by
  have copy := State.offerBurst_spec ((s.entryGone t).settleWaiting.nextEntry s.tx.groupEnds)
    { burst := b, endInstant := max s.now t, own := true }
  have same : ((s.entryGone t).settleWaiting.nextEntry s.tx.groupEnds).fifo = s.fifo ∧
      ((s.entryGone t).settleWaiting.nextEntry s.tx.groupEnds).counters = s.counters ∧
      ((s.entryGone t).settleWaiting.nextEntry s.tx.groupEnds).events = s.events ∧
      ((s.entryGone t).settleWaiting.nextEntry s.tx.groupEnds).merge = s.merge := by simp [State.entryGone, State.offTheLine]
  obtain ⟨fifo, counters, events, merge⟩ := same
  rw [fifo, counters, events, merge] at copy
  exact copy

theorem State.entryDone_spec {s : State} {e : TxEntry} {rest : List TxEntry} (entries : s.tx.entries = e :: rest)
    (room : rest.length < 8) (work : s.tx.engine.AtWork) (b : Burst) (t : Nat) :
    s.Refilled (s.entryDone b t) rest ∧ (s.offTheLine t).EngineTurned (s.entryDone b t) ∧
      (s.entryDone b t).tx.current = (s.tx.current + 1) % 8 ∧
      (s.entryDone b t).sender = { s.sender with pending := none } ∧ (s.tx.groupEnds = true → s.MovedOn (s.entryDone b t)) ∧
      (s.tx.groupEnds = false → (s.entryDone b t).tx.engine = s.tx.engine.at .defer) := by
  rw [State.entryDone, State.offerBurst_eq]
  exact State.entryGone_spec entries room work t

section
variable {s v : State} (e : TxEntry) (groupEnds : Bool)

theorem State.EngineTurned.reported (turned : s.EngineTurned v) (now : v.now = s.now) :
    s.EngineTurned (v.reportCompleted e groupEnds) := by
  cases page : e.isPage with
  | true =>
    rw [State.reportCompleted_page _ page]
    split
    exacts [turned.groupOver now true, turned]
  | false =>
    rw [State.reportCompleted_other _ page]
    exact turned

theorem State.MovedOn.reported (moved : s.MovedOn v) (work : s.tx.engine.AtWork) :
    s.MovedOn (v.reportCompleted e groupEnds) := by
  cases page : e.isPage with
  | true =>
    rw [State.reportCompleted_page _ page]
    split
    exacts [moved.groupOver work true, moved]
  | false =>
    rw [State.reportCompleted_other _ page]
    exact moved

theorem State.reportCompleted_current : (v.reportCompleted e groupEnds).tx.current = v.tx.current := by
  cases page : e.isPage with
  | true =>
    rw [State.reportCompleted_page _ page]
    split
    exacts [v.groupOver_current true, rfl]
  | false => rw [State.reportCompleted_other _ page]

theorem State.reportCompleted_sender : (v.reportCompleted e groupEnds).sender = { v.sender with
    refresh := if e.isLevel then v.sender.refresh.map fun _ => v.now else v.sender.refresh } := by
  cases page : e.isPage with
  | true =>
    have other : e.isLevel = false := by cases body : e.body <;> simp [TxEntry.isPage, TxEntry.isLevel, body] at page ⊢
    rw [State.reportCompleted_page _ page, other]
    split <;> simp
  | false => rw [State.reportCompleted_other _ page]

end

/-- Settles O55: the entry leaves, the freed place is taken, the engine moves on, and the departure is reported. -/
theorem attemptCompletes : Obligations.AttemptCompletes := by
  intro s b since e rest drives entries room driving listens goesOn
  have work : s.tx.engine.AtWork := ⟨.driving, driving⟩
  have over_iff : s.tx.groupEnds = true ↔ ¬goesOn := Tx.groupEnds_iff entries
  have taken := exec_attemptCompletes drives entries listens
  have frame := s.entryDone_frame b (since + b.lineBits)
  have copy := s.entryDone_copy b (since + b.lineBits)
  obtain ⟨refilled, turned, current, sender, moved, goes_on⟩ := State.entryDone_spec entries room work b (since + b.lineBits)
  generalize s.entryDone b (since + b.lineBits) = w at *
  have w_now : w.now = max s.now (since + b.lineBits) := by rw [frame]
  have u_now : (w.reportCompleted e s.tx.groupEnds).now = max s.now (since + b.lineBits) := by simp [w_now]
  obtain ⟨waits, line, sequence⟩ := (turned.reported e s.tx.groupEnds w_now).waits (s.offTheLine_held _)
  have node : w.node = s.node := by rw [frame]
  have port : w.port = s.port := by rw [frame]
  have at_end (other : e.isPage = false) : ¬goesOn := fun ⟨later, _⟩ => by
    rw [TxEntry.hasLaterPages_of other] at later
    cases later
  have told (goes : goesOn) : w.reportCompleted e s.tx.groupEnds = w := by
    have page : e.isPage = true := by
      by_contra other
      exact at_end (by simpa using other) goes
    rw [State.reportCompleted_page w page, if_neg fun ends => over_iff.1 ends goes]
  refine ⟨_, taken, u_now, by rw [line, u_now]; rfl, (State.reportCompleted_current _ _).trans current, sequence, waits,
    fun goes => ?_, fun ends => (moved (over_iff.2 ends)).reported e _ work, fun stays => ?_, fun goes => ?_,
    fun page ends inside => ?_, fun other => ?_, ?_, ?_, ?_, ?_⟩
  · rw [told goes]
    exact goes_on (by simpa using fun ends => over_iff.1 ends goes)
  · by_cases goes : goesOn
    · rw [told goes]
      exact refilled
    · rw [State.reportCompleted_other w (stays.resolve_right goes)]
      exact refilled
  · rw [told goes]
    exact ⟨port, node⟩
  · rw [State.reportCompleted_page w page, if_pos (over_iff.2 ends)]
    exact State.groupOver_ends (refilled.2.1 inside) ((moved (over_iff.2 ends)).idle work) (by rw [sender]) (by rw [frame]) port
      node true
  · rw [State.reportCompleted_other w other]
    exact ⟨port, by rw [node]⟩
  · rw [State.reportCompleted_sender, sender, u_now, w_now]
  · simpa [w_now] using copy.1
  · simpa using copy.2
  · rw [frame]
    apply State.eq_of_fields <;> simp

end Sys2Proof.Machine
end

section
namespace Sys2Proof.Machine

/-! ### An entry kept where the line may be free (R123, R143) -/

/-- An entry that has begun is driven again as it stands (R121). -/
theorem State.enterDefer_begun {s : State} {e : TxEntry} {rest : List TxEntry} (entries : s.tx.entries = e :: rest)
    (begun : e.begun = true) : s.enterDefer.tx = { s.tx with engine := s.enterDefer.tx.engine } ∧
      s.enterDefer.announce = s.announce := by
  simp only [State.enterDefer]
  split
  · simp [State.startAttempt, entries, State.begunEntry, begun]
  · exact ⟨rfl, rfl⟩

section
variable {s : State} {e kept : TxEntry} {rest : List TxEntry} (entries : s.tx.entries = e :: rest)
include entries

theorem State.keepForRetry_line : (s.keepForRetry kept).line = { s.line with
    drive := (s.keepForRetry kept).line.drive, backoffReg := lfsrStep s.line.backoffReg
    wait := (s.keepForRetry kept).line.wait } := by
  by_cases none_drawn : drawSlots (lfsrStep s.line.backoffReg) kept.attempts = 0
  · rw [State.keepForRetry_defers entries none_drawn]
    have line := (State.enterDefer_turned { s with
      tx := { s.tx with entries := kept :: rest, engine := s.tx.engine.at .backoff }
      line := { s.line with backoffReg := lfsrStep s.line.backoffReg, wait := .running s.now } }).line_kept
    rw [line]
  · rw [State.keepForRetry_waits entries none_drawn]

/-- With no slots drawn the engine is in DEFER, or drives at once. -/
theorem State.keepForRetry_at_once (none_drawn : drawSlots (lfsrStep s.line.backoffReg) kept.attempts = 0) :
    (s.keepForRetry kept).line.wait = .none ∧
    ((s.keepForRetry kept).tx.engine.work = some .defer ∨ (s.keepForRetry kept).tx.engine.work = some .driving) := by
  rw [State.keepForRetry_defers entries none_drawn]
  refine ⟨State.enterDefer_wait _, ?_⟩
  exact (State.enterDefer_engine _).imp (fun h => by rw [h, Engine.work_at]) fun h => by rw [h, Engine.work_at]

theorem State.keepForRetry_begun (begun : kept.begun = true) :
    (s.keepForRetry kept).tx = { s.tx with entries := kept :: rest, engine := (s.keepForRetry kept).tx.engine } ∧
    (s.keepForRetry kept).announce = s.announce := by
  by_cases none_drawn : drawSlots (lfsrStep s.line.backoffReg) kept.attempts = 0
  · rw [State.keepForRetry_defers entries none_drawn]
    exact State.enterDefer_begun (s := { s with
      tx := { s.tx with entries := kept :: rest, engine := s.tx.engine.at .backoff }
      line := { s.line with backoffReg := lfsrStep s.line.backoffReg, wait := .running s.now } }) rfl begun
  · rw [State.keepForRetry_waits entries none_drawn]
    exact ⟨rfl, rfl⟩

end

/-! ### The echo check (R144) -/

/-- At the instant `t` the node has heard nothing of its own drive, and stops. -/
def State.notHeard (s : State) (t : Nat) : State :=
  { s with now := max s.now t, line := { s.line with drive := .idle, echoFails := s.line.echoFails + 1 } }

/-- What the queue has made of an attempt that nothing was heard of. -/
def State.unheard (s : State) (e : TxEntry) (t : Nat) : State :=
  match s.failureRecord e false (max s.now t) with
  | none => (s.notHeard t).keepForRetry { e with attempts := e.nextAttempts }
  | some record => (s.notHeard t).dropFront e record

/-- The third failed check in a row (R144). -/
def State.lineFault (s : State) : State := (s.report .lineFault (station := some s.cfg.station)).enterFault

theorem exec_echoCheck_heard {s : State} {b : Burst} {since : Nat} {heard : Bool} (drives : s.line.drive = .driving b since)
    (carrier : heard = true ∨ s.line.run ≠ none) : exec (.echoCheck heard) s =
      .next { s with now := max s.now (since + 40), line := { s.line with echoFails := 0 } } := by
  have seen : (heard || (s.advance (since + Config.startBits)).line.run.isSome) = true := by
    simpa [Option.isSome_iff_ne_none] using carrier
  simp only [exec, execEchoCheck, drives, seen, if_true]
  rw [← drives]
  rfl

theorem exec_echoCheck_unheard {s : State} {b : Burst} {since : Nat} {e : TxEntry} {rest : List TxEntry}
    (drives : s.line.drive = .driving b since) (quiet : s.line.run = none) (entries : s.tx.entries = e :: rest) :
    let failed := s.unheard e (since + 40)
    exec (.echoCheck false) s = .next (if 2 ≤ s.line.echoFails
      then failed.lineFault else failed) := by
  have failed : (s.notHeard (since + 40)).attemptFailed = s.unheard e (since + 40) :=
    State.attemptFailed_eq (s := s.notHeard (since + 40)) entries
  rw [← failed]
  simp only [exec, execEchoCheck, drives]
  refine (if_neg (by simp [quiet])).trans (congrArg Host.Outcome.next ?_)
  by_cases third : 2 ≤ s.line.echoFails
  · exact (if_pos (Nat.succ_le_succ third)).trans (if_pos third).symm
  · exact (if_neg fun h => third (Nat.le_of_succ_le_succ h)).trans (if_neg third).symm

/-- What a failed attempt may have changed of the node and its port, where it was a JOIN's or a BYE's. -/
def State.OwnerTold (s u : State) : Prop :=
  u.node = { s.node with window := u.node.window, leaveDue := u.node.leaveDue } ∧
  (u.port = s.port ∨ s.port.blocking = .join ∧ u.port = { s.port with blocking := .none, ready := true })

theorem State.dropFront_owner (s : State) (e : TxEntry) (record : Record) : s.OwnerTold (s.dropFront e record) := by
  rw [State.dropFront]
  have port : ((s.dropMade (e.leaves s.tx) record).settleWaiting.nextEntry true).port = s.port := by simp [State.dropMade]
  have node : ((s.dropMade (e.leaves s.tx) record).settleWaiting.nextEntry true).node = s.node := by simp [State.dropMade]
  generalize (s.dropMade (e.leaves s.tx) record).settleWaiting.nextEntry true = left at *
  cases page : e.isPage with
  | true =>
    rw [State.dropTold_page _ page]
    obtain ⟨joined, others⟩ := left.groupOver_session false
    rw [port, node] at joined others
    by_cases joins : s.port.blocking = .join
    · obtain ⟨free, window⟩ := joined joins
      exact ⟨by rw [window], .inr ⟨joins, free⟩⟩
    · obtain ⟨same_port, same_node⟩ := others joins
      exact ⟨by rw [same_node], .inl same_port⟩
  | false =>
    rw [State.dropTold_other _ page]
    exact ⟨by rw [node], .inl port⟩

theorem State.unheard_owner (s : State) (e : TxEntry) (t : Nat) : s.OwnerTold (s.unheard e t) := by
  simp only [State.unheard]
  split
  · exact ⟨by simp [State.notHeard], .inl (by simp [State.notHeard])⟩
  · exact State.dropFront_owner (s.notHeard t) e _

@[simp] theorem State.unheard_now (s : State) (e : TxEntry) (t : Nat) : (s.unheard e t).now = max s.now t := by
  simp only [State.unheard]
  split <;> simp [State.notHeard]

theorem State.unheard_frame (s : State) (e : TxEntry) (t : Nat) : s.unheard e t = { s with
    now := (s.unheard e t).now, line := (s.unheard e t).line, announce := (s.unheard e t).announce, tx := (s.unheard e t).tx
    sender := (s.unheard e t).sender, node := (s.unheard e t).node, counters := (s.unheard e t).counters
    port := (s.unheard e t).port, events := (s.unheard e t).events } := by
  simp only [State.unheard]
  split <;> apply State.eq_of_fields <;> simp [State.notHeard]

section
variable {s : State} {e : TxEntry} {rest : List TxEntry} {t : Nat}

theorem State.unheard_kept (kept : s.failureRecord e false (max s.now t) = none) :
    s.unheard e t = (s.notHeard t).keepForRetry { e with attempts := e.nextAttempts } := by
  simp only [State.unheard, kept]

theorem State.unheard_dropped {record : Record} (dropped : s.failureRecord e false (max s.now t) = some record) :
    s.unheard e t = (s.notHeard t).dropFront e record := by
  simp only [State.unheard, dropped]

theorem State.unheard_line (entries : s.tx.entries = e :: rest) (room : rest.length < 8) (work : s.tx.engine.AtWork) :
    (s.unheard e t).line = { s.line with
      drive := (s.unheard e t).line.drive, echoFails := s.line.echoFails + 1
      backoffReg := (s.unheard e t).line.backoffReg, wait := (s.unheard e t).line.wait } := by
  cases failed : s.failureRecord e false (max s.now t) with
  | none =>
    rw [State.unheard_kept failed, State.keepForRetry_line (s := s.notHeard t) entries]
    rfl
  | some record =>
    rw [State.unheard_dropped failed, (State.dropFront_turned (s := s.notHeard t) entries room work record).line_kept]
    rfl

theorem State.unheard_sender (entries : s.tx.entries = e :: rest) (room : rest.length < 8) (work : s.tx.engine.AtWork) :
    (s.unheard e t).sender = { s.sender with pending := (s.unheard e t).sender.pending } := by
  cases failed : s.failureRecord e false (max s.now t) with
  | none => simp [State.unheard_kept failed, State.notHeard]
  | some record =>
    obtain ⟨-, -, -, -, sender, -⟩ := State.dropFront_dropped (s := s.notHeard t) entries room work record
    rw [State.unheard_dropped failed, sender]
    rfl

theorem State.unheard_isDropped (entries : s.tx.entries = e :: rest) (room : rest.length < 8) (work : s.tx.engine.AtWork)
    {record : Record} (dropped : s.failureRecord e false (max s.now t) = some record) :
    s.Dropped (s.unheard e t) e rest record := by
  rw [State.unheard_dropped dropped]
  exact State.dropFront_dropped (s := s.notHeard t) entries room work record

theorem State.unheard_isKept (entries : s.tx.entries = e :: rest)
    (kept : s.failureRecord e false (max s.now t) = none) : (s.unheard e t).counters = s.counters ∧
      (e.begun = true → (s.unheard e t).tx = { s.tx with
        entries := { e with attempts := e.nextAttempts } :: rest, engine := (s.unheard e t).tx.engine }) := by
  rw [State.unheard_kept kept]
  exact ⟨by simp [State.notHeard],
    fun begun => (State.keepForRetry_begun (s := s.notHeard t) (kept := { e with attempts := e.nextAttempts }) entries begun).1⟩

theorem State.unheard_counters {record : Record} (dropped : s.failureRecord e false (max s.now t) = some record) :
    (s.unheard e t).counters = { s.counters with txDropped := min 65535 (s.counters.txDropped + 1) } := by
  simp [State.unheard_dropped dropped, State.notHeard]

theorem State.unheard_events (s : State) (e : TxEntry) (t : Nat) : (s.unheard e t).events =
    (s.failureRecord e false (max s.now t)).toList.foldl EventUnit.offer s.events := by
  simp only [State.unheard]
  split
  next kept => simp [State.notHeard, kept]
  next record dropped => simp [State.notHeard, dropped]

end

/-- The queue of a state in which the current entry has been dropped, as FAULT finds it. -/
theorem State.Dropped.queue {s u : State} {e : TxEntry} {rest left : List TxEntry} {record : Record}
    (dropped : s.Dropped u e rest record) (inside : s.announce.waiting = false) (behind : e.LeavesBehind rest left) :
    let queue := left ++ s.heldLevel
    let pages := max 1 ((s.ownDeclarations.length + 3) / 4)
    let joins := e.isPage = true ∧ s.announce.remembered = true ∧ queue.length + pages ≤ 8
    (joins → u.tx.entries.length = queue.length + pages ∧ queue.tail <+: u.tx.entries.tail) ∧
    (¬joins → u.tx.entries.length = queue.length ∧ u.tx.entries.tail = queue.tail) := by
  obtain ⟨-, -, -, -, -, -, owners⟩ := dropped
  obtain ⟨other, page⟩ := owners left behind
  intro queue pages joins
  have only (is : ∃ announce, u.QueueIs queue announce) (stays : ¬joins) :
      (joins → u.tx.entries.length = queue.length + pages ∧ queue.tail <+: u.tx.entries.tail) ∧
      (¬joins → u.tx.entries.length = queue.length ∧ u.tx.entries.tail = queue.tail) := by
    obtain ⟨announce, is⟩ := is
    exact ⟨fun h => absurd h stays, fun _ => ⟨is.length, is.tail⟩⟩
  cases is_page : e.isPage with
  | false => exact only ⟨_, (other is_page).1.2.1 inside⟩ fun ⟨page, _⟩ => by simp [is_page] at page
  | true =>
    obtain ⟨-, none_asked, asked, -⟩ := page is_page inside
    cases remembered : s.announce.remembered with
    | false => exact only ⟨_, none_asked remembered⟩ fun ⟨_, asks, _⟩ => by simp [remembered] at asks
    | true =>
      have group := asked remembered
      by_cases fits : queue.length + pages ≤ 8
      · exact ⟨fun _ => ⟨group.length.trans (if_pos fits), group.tail⟩,
          fun stays => absurd ⟨is_page, remembered, fits⟩ stays⟩
      · exact only ⟨_, group.2 (Nat.not_le.1 fits)⟩ fun h => fits h.2.2

/-- FAULT that is entered from a state in which the owner of an entry has been told ends as from the state before. -/
theorem State.FaultEntered.behind {s v u : State} (entered : v.FaultEntered u) (owner : s.OwnerTold v)
    (sender : v.sender = { s.sender with pending := v.sender.pending }) (output : v.output = s.output) : s.FaultEntered u := by
  obtain ⟨node, port⟩ := owner
  obtain ⟨fault, engine, drive, wait, silent, holdOff, remembered, waiting, own, effective, voted, localRequest, notLive,
    notRising, factor, ended, kept⟩ := entered
  refine ⟨by rw [fault, node], engine, drive, wait, by rw [silent, sender], holdOff, remembered, waiting, own, effective, voted,
    by rw [localRequest, output], notLive, notRising, by rw [factor, output], ?_, ?_⟩
  · rcases port with same | ⟨joins, free⟩
    · simpa only [same] using ended
    · intro _
      rw [kept (by rw [free]; nofun) (by rw [free]; nofun), free]
  · rcases port with same | ⟨joins, -⟩
    · simpa only [same] using kept
    · exact fun other => absurd joins other

/-- LINE_FAULT and FAULT behind what the queue has made of the attempt, with `records` raised by it. -/
theorem State.lineFault_spec {s f : State} {records : List Record} (owner : s.OwnerTold f)
    (sender : f.sender = { s.sender with pending := f.sender.pending })
    (events : f.events = records.foldl EventUnit.offer s.events)
    (frame : f = { s with
      now := f.now, line := f.line, announce := f.announce, tx := f.tx, sender := f.sender, node := f.node
      counters := f.counters, port := f.port, events := f.events })
    (joined : s.node.state = .joining ∨ s.node.state = .active ∨ s.node.state = .leaving) :
    s.FaultEntered f.lineFault ∧ f.lineFault.tx = { f.tx with engine := .stopped } ∧
    f.lineFault.line.echoFails = f.line.echoFails ∧ f.lineFault.now = f.now ∧ f.lineFault.counters = f.counters ∧
    s.Raised f.lineFault (records ++ [
      { kind := .lineFault, count := s.merge.periodCount, station := some s.cfg.station },
      { kind := .nodeState, count := s.merge.periodCount, detail := some 4, value := some (s.node.state.code : Int) }]) ∧
    f.lineFault = { s with
      now := f.lineFault.now, line := f.lineFault.line, announce := f.lineFault.announce, output := f.lineFault.output
      tx := f.lineFault.tx, sender := f.lineFault.sender, node := f.lineFault.node, counters := f.lineFault.counters
      port := f.lineFault.port, events := f.lineFault.events } := by
  have output : f.output = s.output := by rw [frame]
  have merge : f.merge = s.merge := by rw [frame]
  have cfg : f.cfg = s.cfg := by rw [frame]
  have state : f.node.state = s.node.state := by rw [owner.1]
  have joined_f : (f.report .lineFault (station := some f.cfg.station)).node.state.joined = true := by
    show f.node.state.joined = true
    rw [state]
    rcases joined with h | h | h <;> rw [h] <;> rfl
  have entered := State.enterFault_entered joined_f
  obtain ⟨tx, -, line, -, raised⟩ := State.enterFault_ends joined_f
  rw [State.lineFault]
  refine ⟨State.FaultEntered.behind entered owner sender output, tx, ?_, by simp, by simp, ?_, ?_⟩
  · rw [line, State.faultMade_line]
    rfl
  · have behind := raised.behind (s := s) (first := records ++ [
      { kind := .lineFault, count := s.merge.periodCount, station := some s.cfg.station }]) ?_ ?_ ?_ ?_
    · simpa [merge, state] using behind
    · simp [events, merge, cfg]
    · simp [output]
    · simp [output]
    · simp [merge]
  · apply State.eq_of_fields <;> simp
    all_goals rw [frame]

/-- What a failed check leaves of an entry that is kept: it waits out the slots drawn, or is driven again at once. -/
theorem State.keepForRetry_unheard (s : State) {e : TxEntry} {rest : List TxEntry} {t : Nat} (entries : s.tx.entries = e :: rest) :
    let attempts := e.nextAttempts
    let slots := drawSlots (lfsrStep s.line.backoffReg) attempts
    let u := (s.notHeard t).keepForRetry { e with attempts }
    u.line.backoffReg = lfsrStep s.line.backoffReg ∧
    (1 ≤ slots → u.line.drive = .idle ∧ u.line.wait = .running (max s.now t + 128 * slots) ∧
      u.tx = { s.tx with entries := { e with attempts } :: rest, engine := s.tx.engine.at .backoff }) ∧
    (slots = 0 → u.line.wait = .none ∧ (u.tx.engine.work = some .defer ∨ u.tx.engine.work = some .driving) ∧
      (e.begun = true → u.tx = { s.tx with entries := { e with attempts } :: rest, engine := u.tx.engine })) ∧
    (e.begun = true → u.announce = s.announce) ∧
    u = { s with now := u.now, line := u.line, announce := u.announce, tx := u.tx } := by
  intro attempts slots u
  have begun (begun : e.begun = true) :=
    State.keepForRetry_begun (s := s.notHeard t) (kept := { e with attempts }) entries begun
  refine ⟨?_, fun drawn => ?_, fun none_drawn => ?_, fun h => (begun h).2, ?_⟩
  · rw [State.keepForRetry_line (s := s.notHeard t) entries]
    rfl
  · have waits := State.keepForRetry_waits (s := s.notHeard t) (e := { e with attempts }) entries (Nat.pos_iff_ne_zero.1 drawn)
    refine ⟨?_, ?_, ?_⟩
    · exact (congrArg (·.line.drive) waits)
    · rw [Nat.mul_comm 128 slots]
      exact congrArg (·.line.wait) waits
    · exact congrArg State.tx waits
  · obtain ⟨wait, work⟩ := State.keepForRetry_at_once (s := s.notHeard t) (kept := { e with attempts }) entries none_drawn
    exact ⟨wait, work, fun h => (begun h).1⟩
  · apply State.eq_of_fields <;> simp [u, State.notHeard]

/-- Settles O53: what was heard, then what the queue has made of a failed check, then FAULT at the third in a row. -/
theorem echoCheckJudgesTheDrive : Obligations.EchoCheckJudgesTheDrive := by
  intro s b since drives
  refine ⟨fun heard carrier => exec_echoCheck_heard drives carrier, fun e rest quiet entries room work => ?_⟩
  intro ends dropped attempts slots
  have taken := exec_echoCheck_unheard drives quiet entries
  have line := State.unheard_line (t := since + 40) entries room work
  have frame := s.unheard_frame e (since + 40)
  refine ⟨fun below => ⟨_, taken.trans (congrArg Host.Outcome.next (if_neg (Nat.not_le.2 below))), State.unheard_now s e _,
    line, fun kept => ?_, ?_, frame⟩, fun third joined => ?_⟩
  · rw [State.unheard_kept kept]
    exact State.keepForRetry_unheard s entries
  · exact fun record there => State.unheard_isDropped entries room work there
  · obtain ⟨entered, tx, fails, now, counters, raised, kept_rest⟩ := State.lineFault_spec (s.unheard_owner e (since + 40))
      (State.unheard_sender entries room work) (s.unheard_events e (since + 40)) frame joined
    refine ⟨_, taken.trans (congrArg Host.Outcome.next (if_pos third)), now.trans (State.unheard_now s e _), entered,
      fails.trans (congrArg Line.echoFails line), fun none_dropped => ?_,
      fun record there => ⟨?_, fun inside left behind => ?_⟩, raised, kept_rest⟩
    · obtain ⟨same, begun⟩ := State.unheard_isKept (t := since + 40) entries none_dropped
      exact ⟨counters.trans same, fun h => by rw [tx, begun h]; rfl⟩
    · exact counters.trans (State.unheard_counters there)
    · rw [tx]
      exact (State.unheard_isDropped entries room work there).queue inside behind

end Sys2Proof.Machine
end

section
/-! Proofs of the statements of 07_the_transmit_queue_and_the_level_sender.md. -/

namespace Sys2Proof.Machine

/-! ### The law of the Transmit Queue (R116, R118, R121) -/

/-- The law of the Transmit Queue but for one thing: a LEVEL may be pending beside a place that has just freed. -/
structure State.QueueSound (s : State) : Prop where
  size : s.tx.entries.length ≤ 8
  front : ∀ e ∈ s.tx.entries.tail, e.begun = false
  fresh : s.tx.entries.countP TxEntry.freshLevel ≤ 1
  held : s.sender.pending.isSome → s.tx.entries.countP TxEntry.freshLevel = 0

theorem State.txLaw_iff (s : State) :
    s.TxLaw ↔ s.QueueSound ∧ (s.sender.pending.isSome → 8 ≤ s.tx.entries.length) :=
  ⟨fun ⟨size, front, fresh, held⟩ => ⟨⟨size, front, fresh, fun h => (held h).2⟩, fun h => (held h).1⟩,
    fun ⟨⟨size, front, fresh, held⟩, full⟩ => ⟨size, front, fresh, fun h => ⟨full h, held h⟩⟩⟩

/-- The entries of `l'` are those of `l` in their places, tried again, rewritten or, the first of them, begun: none behind the
first has begun that had not, and no LEVEL is new. -/
structure SamePlaces (l l' : List TxEntry) : Prop where
  length : l'.length = l.length
  begun : (∀ e ∈ l.tail, e.begun = false) → ∀ e ∈ l'.tail, e.begun = false
  fresh : l'.countP TxEntry.freshLevel ≤ l.countP TxEntry.freshLevel

theorem SamePlaces.refl (l : List TxEntry) : SamePlaces l l := ⟨rfl, id, le_rfl⟩

theorem SamePlaces.of_first {e e' : TxEntry} (rest : List TxEntry) (fresh : e'.freshLevel = true → e.freshLevel = true) :
    SamePlaces (e :: rest) (e' :: rest) := by
  refine ⟨rfl, id, ?_⟩
  cases old : e.freshLevel <;> cases new : e'.freshLevel <;> simp [old, new] at fresh ⊢

theorem begunEntry_begun (s : State) (e : TxEntry) : (s.begunEntry e).begun = true := by
  simp only [State.begunEntry]
  split <;> simp [*]

theorem Started.samePlaces {l l' : List TxEntry} (started : Started l l') : SamePlaces l l' := by
  rcases started with rfl | ⟨e, rest, s, rfl, rfl⟩
  · exact .refl _
  · exact .of_first rest fun fresh => by simp [TxEntry.freshLevel, begunEntry_begun] at fresh

theorem samePlaces_rewriteLevel (pairs : List (Nat × Int)) (hold : Bool) (l : List TxEntry) :
    SamePlaces l (l.map (rewriteLevel pairs hold)) := by
  have begun (e : TxEntry) : (rewriteLevel pairs hold e).begun = e.begun := by
    simp only [rewriteLevel]
    split <;> rfl
  have fresh (e : TxEntry) : (rewriteLevel pairs hold e).freshLevel = e.freshLevel := by
    simp only [rewriteLevel]
    split
    next level =>
      rw [show e.freshLevel = true from level]
      simp only [Bool.and_eq_true] at level
      simp [TxEntry.freshLevel, TxEntry.isLevel, level]
    next => rfl
  refine ⟨by simp, by simp [← List.map_tail, begun], ?_⟩
  rw [List.countP_map, Function.comp_def]
  simp only [fresh]
  exact le_rfl

/-! ### Events that keep the law -/

/-- From `s` to `u` the law of the Transmit Queue has been kept. -/
def TxKept (s u : State) : Prop := s.TxLaw → u.TxLaw

theorem TxKept.refl (s : State) : TxKept s s := id

theorem TxKept.trans {s u v : State} (h : TxKept s u) (h' : TxKept u v) : TxKept s v := h' ∘ h

theorem TxKept.ite {c : Prop} [Decidable c] {s t u : State} (h : TxKept s t) (h' : TxKept s u) :
    TxKept s (if c then t else u) := by
  split
  exacts [h, h']

theorem TxKept.foldl {β : Type} {f : State → β → State} (h : ∀ s b, TxKept s (f s b)) (l : List β) (s : State) :
    TxKept s (l.foldl f s) := by
  induction l generalizing s with
  | nil => exact .refl s
  | cons b l ih => exact (h s b).trans (ih (f s b))

theorem TxKept.of_samePlaces {s u : State} (same : SamePlaces s.tx.entries u.tx.entries)
    (pending : u.sender.pending = s.sender.pending := by simp) : TxKept s u := fun ⟨size, front, fresh, held⟩ => by
  obtain ⟨length, begun, fewer⟩ := same
  refine ⟨length ▸ size, begun front, fewer.trans fresh, fun h => ?_⟩
  obtain ⟨full, none_fresh⟩ := held (pending ▸ h)
  exact ⟨length ▸ full, by omega⟩

/-- The law rests on the entries of the queue and on what is pending beside them. -/
theorem TxKept.of_eq {s u : State} (entries : u.tx.entries = s.tx.entries := by simp)
    (pending : u.sender.pending = s.sender.pending := by simp) : TxKept s u :=
  .of_samePlaces (entries ▸ .refl _) pending

/-- A queue beside which nothing is pending any more. -/
theorem TxKept.of_silent {s u : State} (entries : u.tx.entries = s.tx.entries) (pending : u.sender.pending = none) :
    TxKept s u := fun ⟨size, front, fresh, _⟩ => by
  simp only [State.TxLaw, entries, pending]
  exact ⟨size, front, fresh, nofun⟩

theorem State.txLaw_of_empty {s : State} (entries : s.tx.entries = []) (pending : s.sender.pending = none) : s.TxLaw := by
  simp [State.TxLaw, entries, pending]

/-- Entries that have not begun join behind the others where there is room for them, at most one LEVEL being fresh then. -/
theorem State.TxLaw.append {s u : State} (law : s.TxLaw) {more : List TxEntry}
    (entries : u.tx.entries = s.tx.entries ++ more) (joins : more ≠ []) (room : s.tx.entries.length + more.length ≤ 8)
    (new : ∀ e ∈ more, e.begun = false)
    (fresh : s.tx.entries.countP TxEntry.freshLevel + more.countP TxEntry.freshLevel ≤ 1)
    (pending : u.sender.pending = s.sender.pending := by simp) : u.TxLaw := by
  obtain ⟨-, front, -, held⟩ := law
  have length : 0 < more.length := List.length_pos_iff.2 joins
  have none_held : ¬s.sender.pending.isSome := fun h => by have := (held h).1; omega
  simp only [State.TxLaw, entries, pending, List.length_append, List.countP_append]
  refine ⟨room, fun e he => ?_, fresh, fun h => absurd h none_held⟩
  cases queue : s.tx.entries with
  | nil => exact new e (List.mem_of_mem_tail (by simpa [queue] using he))
  | cons first rest =>
    rw [queue] at he front
    rcases List.mem_append.1 he with there | joined
    exacts [front e there, new e joined]

/-! ### What the queue's operations keep (R116 to R121) -/

theorem State.startAttempt_txKept (s : State) (t : Nat) : TxKept s (s.startAttempt t) :=
  .of_samePlaces (s.startAttempt_started t).samePlaces

theorem State.enterDefer_txKept (s : State) : TxKept s s.enterDefer := .of_samePlaces s.enterDefer_started.samePlaces

theorem State.wake_txKept (s : State) : TxKept s s.wake := .of_samePlaces s.wake_started.samePlaces

theorem State.nextEntry_txKept (s : State) (groupOver : Bool) : TxKept s (s.nextEntry groupOver) :=
  .of_samePlaces (s.nextEntry_started groupOver).samePlaces

theorem Tx.full_iff (tx : Tx) : tx.full = true ↔ 8 ≤ tx.entries.length := decide_eq_true_iff

/-- A new entry joins where a place is free, a LEVEL only where none is fresh. -/
theorem State.TxLaw.enqueue {s : State} (law : s.TxLaw) (room : s.tx.entries.length < 8) {e : TxEntry} (new : e.begun = false)
    (fresh : e.freshLevel = true → s.tx.entries.countP TxEntry.freshLevel = 0) : (s.enqueue e).TxLaw := by
  refine State.wake_txKept _ (law.append (Tx.push_entries s.tx e) (by simp) room (by simpa using new) ?_)
  obtain ⟨-, -, few, -⟩ := law
  cases level : e.freshLevel with
  | true => simp [level, fresh level]
  | false => simpa [level] using few

theorem groupPages_new {decls : List Declaration} {e : TxEntry} (he : e ∈ groupPages decls) :
    e.begun = false ∧ e.freshLevel = false := by
  obtain ⟨i, -, rfl⟩ := List.mem_map.1 he
  exact ⟨rfl, rfl⟩

/-- An announce group joins whole, and beside a pending LEVEL the queue has no place for it. -/
theorem State.joinGroup_txKept (s : State) : TxKept s s.joinGroup := by
  intro law
  simp only [State.joinGroup]
  split
  next fits =>
    obtain ⟨size, -, few, -⟩ := id law
    refine State.wake_txKept _ (law.append (foldl_push _ _) (fun none_there => ?_) ?_ ?_ ?_)
    · have length := groupPages_length s.ownDeclarations
      simp [none_there] at length
      omega
    · have fits : _ ≤ 8 - s.tx.entries.length := fits
      omega
    · exact fun e he => (groupPages_new he).1
    · have pages : (groupPages s.ownDeclarations).countP TxEntry.freshLevel = 0 :=
        List.countP_eq_zero.2 fun e he => by simp [(groupPages_new he).2]
      rwa [pages]
  next => exact TxKept.of_eq (s := s) rfl rfl law

theorem State.queueGroup_txKept (s : State) : TxKept s s.queueGroup :=
  .trans .of_eq (State.joinGroup_txKept { s with announce := { s.announce with state := .queued } })

/-- A LEVEL is asked for: the fresh one is rewritten, or it is pending beside a full queue, or it joins as the only fresh one. -/
theorem State.queueLevel_txKept (s : State) (hold : Bool) : TxKept s (s.queueLevel hold) := by
  intro law
  simp only [State.queueLevel]
  split
  next => exact TxKept.of_samePlaces (s := s) (samePlaces_rewriteLevel _ _ _) rfl law
  next none_fresh =>
    have none_fresh : s.tx.entries.countP TxEntry.freshLevel = 0 := by
      simpa [List.countP_eq_zero, TxEntry.freshLevel] using none_fresh
    split
    next full =>
      obtain ⟨size, front, fresh, -⟩ := law
      exact ⟨size, front, fresh, fun _ => ⟨s.tx.full_iff.1 full, none_fresh⟩⟩
    next room => exact law.enqueue (Nat.not_le.1 fun full => room (s.tx.full_iff.2 full)) rfl fun _ => none_fresh

/-- A place that has freed goes to the pending LEVEL, so that none is pending beside a free place any more. -/
theorem State.QueueSound.settleWaiting {s : State} (sound : s.QueueSound) : s.settleWaiting.TxLaw := by
  have joins {t : State} (law : t.TxLaw) : (if t.announce.waiting then t.joinGroup else t).TxLaw :=
    TxKept.ite t.joinGroup_txKept (.refl t) law
  simp only [State.settleWaiting]
  cases held : s.sender.pending with
  | none => exact joins (s.txLaw_iff.2 ⟨sound, by simp [held]⟩)
  | some hold =>
    obtain ⟨size, front, few, none_fresh⟩ := sound
    refine joins ?_
    dsimp only
    split
    next full => exact s.txLaw_iff.2 ⟨⟨size, front, few, none_fresh⟩, fun _ => s.tx.full_iff.1 full⟩
    next room =>
      have law : State.TxLaw { s with sender := { s.sender with pending := none } } := ⟨size, front, few, nofun⟩
      exact law.enqueue (Nat.not_le.1 fun full => room (s.tx.full_iff.2 full)) rfl fun _ => none_fresh (by simp [held])

theorem State.QueueSound.movesOn {s : State} (sound : s.QueueSound) (groupOver : Bool) :
    (s.settleWaiting.nextEntry groupOver).TxLaw := State.nextEntry_txKept _ _ sound.settleWaiting

/-- Entries have left the queue, and what stands behind its front stood there before. -/
theorem State.TxLaw.leave {s u : State} (law : s.TxLaw) (left : u.tx.entries.Sublist s.tx.entries)
    (behind : ∀ e ∈ u.tx.entries.tail, e ∈ s.tx.entries.tail) (pending : u.sender.pending = s.sender.pending) :
    u.QueueSound := by
  obtain ⟨size, front, fresh, held⟩ := law
  have fewer := left.countP_le (p := TxEntry.freshLevel)
  refine ⟨left.length_le.trans size, fun e he => front e (behind e he), fewer.trans fresh, fun h => ?_⟩
  have := (held (pending ▸ h)).2
  omega

/-- The current entry has left, and pages behind it with it. -/
theorem State.TxLaw.leave_front {s u : State} (law : s.TxLaw) (left : u.tx.entries <:+ s.tx.entries.tail)
    (pending : u.sender.pending = s.sender.pending) : u.QueueSound :=
  law.leave (left.sublist.trans (List.tail_sublist _)) (fun _ he => left.subset (List.mem_of_mem_tail he)) pending

theorem Tx.remove_entries {tx : Tx} {i : Nat} (inside : i < tx.entries.length) :
    (tx.remove i).entries = tx.entries.eraseIdx i := by
  cases i with
  | zero => simp [Tx.remove]
  | succ i => simp [Tx.remove, inside]

theorem mem_tail_of_mem_tail_eraseIdx {l : List TxEntry} {i : Nat} {e : TxEntry} (he : e ∈ (l.eraseIdx i).tail) :
    e ∈ l.tail := by
  cases l with
  | nil => simp at he
  | cons first rest =>
    cases i with
    | zero => exact List.mem_of_mem_tail he
    | succ i => exact List.mem_of_mem_eraseIdx he

theorem State.groupOver_txKept (s : State) (completed : Bool) : TxKept s (s.groupOver completed) := by
  have ended (t : State) : TxKept t t.endJoin := .of_eq
  rw [State.groupOver_eq]
  refine .trans (.ite ?_ ?_) (ended _)
  exacts [.trans .of_eq (State.queueGroup_txKept _), .of_eq]

theorem State.dropTold_txKept (s : State) (e : TxEntry) : TxKept s (s.dropTold e) := by
  cases page : e.isPage with
  | true => rw [State.dropTold_page s page]; exact s.groupOver_txKept false
  | false => rw [State.dropTold_other s page]; exact .of_eq

theorem State.dropCurrent_txKept (s : State) (reason : TxReason) : TxKept s (s.dropCurrent reason) := by
  intro law
  cases entries : s.tx.entries with
  | nil => rw [State.dropCurrent, entries]; exact law
  | cons e rest =>
    have made : (s.dropMade (e.leaves s.tx) (s.txDroppedRecord e reason)).QueueSound :=
      law.leave_front (e.leaves_suffix s.tx) rfl
    rw [State.dropCurrent_eq entries]
    exact State.dropTold_txKept _ e (made.movesOn true)

/-- A TRIGGER entry leaves from any place as stale. -/
theorem State.dropStale_txKept {s : State} {i : Nat} (inside : i < s.tx.entries.length) (item : TriggerItem) :
    TxKept s (s.dropStale i item) := by
  intro law
  have entries := Tx.remove_entries inside
  have made : (s.dropMade (s.tx.remove i) (s.staleRecord item)).QueueSound :=
    law.leave (by simpa only [State.dropMade, entries] using List.eraseIdx_sublist _ _)
      (fun e he => mem_tail_of_mem_tail_eraseIdx (by simpa only [State.dropMade, entries] using he)) rfl
  rw [State.dropStale_eq]
  dsimp only
  split
  exacts [made.movesOn true, made.settleWaiting]

theorem State.keepForRetry_txKept {s : State} {e tried : TxEntry} {rest : List TxEntry} (entries : s.tx.entries = e :: rest)
    (body : tried.body = e.body) (begun : tried.begun = e.begun) : TxKept s (s.keepForRetry tried) := by
  have first : SamePlaces s.tx.entries (tried :: rest) :=
    entries ▸ .of_first rest fun fresh => by simpa only [TxEntry.freshLevel, TxEntry.isLevel, body, begun] using fresh
  by_cases slots : drawSlots (lfsrStep s.line.backoffReg) tried.attempts = 0
  · rw [State.keepForRetry_defers entries slots]
    exact fun law => State.enterDefer_txKept _ (TxKept.of_samePlaces (s := s) first rfl law)
  · rw [State.keepForRetry_waits entries slots]
    exact .of_samePlaces first rfl

theorem State.attemptFailed_txKept (s : State) : TxKept s s.attemptFailed := by
  cases entries : s.tx.entries with
  | nil => rw [State.attemptFailed, entries]; exact .refl s
  | cons e rest =>
    have retried : TxKept s (if e.attempts + 1 < 12 then s.keepForRetry { e with attempts := e.attempts + 1 }
        else if s.cfg.timing.persist then s.keepForRetry { e with attempts := 0 } else s.dropCurrent .excessive) :=
      .ite (State.keepForRetry_txKept entries rfl rfl)
        (.ite (State.keepForRetry_txKept entries rfl rfl) (s.dropCurrent_txKept _))
    by_cases trigger : ∃ item q d, e.body = .trigger item q d
    · obtain ⟨item, q, d, body⟩ := trigger
      rw [State.attemptFailed_trigger entries body]
      exact .ite (State.dropStale_txKept (by simp [entries]) item) retried
    · rw [State.attemptFailed_other entries fun item q d body => trigger ⟨item, q, d, body⟩]
      exact retried

end Sys2Proof.Machine
end

section
namespace Sys2Proof.Machine

/-! ### Votes, FAULT and bursts keep the law (R65, R95 to R105, R114) -/

theorem State.formRequest_txKept (s : State) : TxKept s s.formRequest := by
  simp only [State.formRequest]
  refine .ite (.refl s) (.ite .of_eq ?_)
  exact .trans .of_eq (State.queueLevel_txKept { s with output := { s.output with ownRequest := s.formOwnRequest } } _)

theorem State.revote_txKept (s : State) : TxKept s s.revote := by
  rw [State.revote]
  exact s.formRequest_txKept.trans .of_eq

theorem State.enterFault_txKept (s : State) : TxKept s s.enterFault := by
  by_cases joined : s.node.state.joined = true
  · rw [State.enterFault_eq joined]
    exact .trans (.of_silent (by simp [State.faultMade]) rfl) s.faultMade.revote_txKept
  · rw [State.enterFault, if_neg joined]
    exact .refl s

theorem State.requestAnnounce_txKept (s : State) : TxKept s s.requestAnnounce := by
  simp only [State.requestAnnounce]
  refine .ite (.refl s) (.ite ?_ (.refl s))
  split
  exacts [.ite .of_eq s.queueGroup_txKept, .refl s, .of_eq]

theorem State.completeGroup_txKept (s : State) (x : Nat) (a : Assembly) : TxKept s (s.completeGroup x a) := by
  have taken : TxKept s (s.groupTaken x a) := .of_eq (by simp [State.groupTaken]) (by simp [State.groupTaken])
  rw [State.completeGroup_eq]
  exact .ite taken (taken.trans (State.requestAnnounce_txKept _))

theorem State.takeAssembly_txKept (s : State) (x : Nat) (a : Assembly) : TxKept s (s.takeAssembly x a) :=
  .ite (s.completeGroup_txKept x a) .of_eq

theorem State.applyPage_txKept (s : State) (x index count : Nat) (decls : List Declaration) :
    TxKept s (s.applyPage x index count decls) := by
  simp only [State.applyPage]
  split
  exacts [.ite (s.takeAssembly_txKept x _) .of_eq, .of_eq]

theorem State.applyUnannounced_txKept (s : State) (x : Nat) : TxKept s (s.applyUnannounced x) :=
  .trans .of_eq (State.requestAnnounce_txKept (s.countUndeclared x))

theorem State.applyContents_txKept (s : State) (e : FifoEntry) : TxKept s (s.applyContents e) := by
  simp only [State.applyContents]
  split
  · exact s.takeAssembly_txKept _ _
  · exact s.applyPage_txKept _ _ _ _
  · exact .ite (s.applyUnannounced_txKept _) .of_eq
  · exact .ite (.trans .of_eq (State.applyUnannounced_txKept (dropItems _ _ s) _)) .of_eq
  · exact .of_eq

/-- This node's own burst changes at most what the Level Sender has last sent. -/
theorem State.applyOwn_txKept (s : State) (e : FifoEntry) : TxKept s (s.applyOwn e) := by
  simp only [State.applyOwn]
  split
  · exact .of_eq rfl rfl
  all_goals exact .of_eq

theorem State.applyEntry_txKept (s : State) (e : FifoEntry) : TxKept s (s.applyEntry e) := by
  refine .trans ?_ (State.revote_txKept _)
  refine .ite .of_eq (.ite (s.applyOwn_txKept e) (.ite ?_ ?_))
  · exact .ite (.refl s) (.trans .of_eq (State.enterFault_txKept _))
  · exact .trans .of_eq (State.applyContents_txKept (s.headerSteps e.burst) e)

theorem State.applyOldest_txKept (s : State) : TxKept s s.applyOldest := by
  simp only [State.applyOldest]
  split
  exacts [.refl s, .trans .of_eq (State.applyEntry_txKept _ _)]

theorem State.losePeer_txKept (s : State) (x : Nat) : TxKept s (s.losePeer x) := by
  simp only [State.losePeer]
  split
  exacts [.ite (.refl s) (.trans .of_eq (State.revote_txKept _)), .refl s]

theorem State.forgetPeer_txKept (s : State) (x : Nat) : TxKept s (s.forgetPeer x) := by
  simp only [State.forgetPeer]
  split
  exacts [.ite (.refl s) (.trans .of_eq (State.revote_txKept _)), .refl s]

/-! ### A pass, JOIN and LEAVE keep the law (R11, R49, R88, R111, R113, R129, R130) -/

/-- The end of a session leaves nothing queued and nothing pending. -/
theorem State.completeLeave_txKept (s : State) : TxKept s s.completeLeave := fun _ => by
  obtain ⟨-, -, -, -, -, -, tx, sender, -⟩ := s.completeLeave_ended
  exact State.txLaw_of_empty (by rw [tx]) (by rw [sender]; rfl)

theorem State.makeHeld_txKept (s : State) (h : HeldChange) : TxKept s (s.makeHeld h) := by
  cases h with
  | silence x => exact s.losePeer_txKept x
  | forget x => exact s.forgetPeer_txKept x
  | applyBurst => exact s.applyOldest_txKept
  | leaveCompletion => exact .ite s.completeLeave_txKept (.refl s)
  | ownEntries => exact .of_eq (u := s.createOwnEntries) rfl rfl

theorem State.monitorPass_txKept (s : State) (p : Pass) : TxKept s (s.monitorPass p) := by
  obtain ⟨events, axes, counted | tripped⟩ := s.monitorPass_cases p
  · rw [counted]; exact .of_eq
  · rw [tripped]; exact .trans .of_eq (State.revote_txKept _)

theorem State.finishPass_txKept (s : State) : TxKept s s.finishPass := by
  simp only [State.finishPass]
  split
  · exact .refl s
  next p _ =>
    have handedOver (t : State) : TxKept t (t.handOver p) := by
      simp only [State.handOver]
      split
      exacts [.trans .of_eq (State.monitorPass_txKept _ p), (t.monitorPass_txKept p).trans .of_eq]
    exact .trans (.trans .of_eq (handedOver _)) (.foldl State.makeHeld_txKept _ _)

theorem State.beginPass_txKept (s : State) (order : HandOverOrder) : TxKept s (s.beginPass order) := .of_eq rfl rfl

theorem State.joinNow_txKept (s : State) : TxKept s s.joinNow := by
  rw [State.joinNow_eq]
  refine .trans ?_ (State.revote_txKept _)
  simp only [State.joinPrepared]
  refine .ite (.of_eq rfl rfl) (.trans ?_ (State.queueGroup_txKept _))
  refine .of_eq ?_ ?_ <;> simp only [State.joinSources, State.orHold] <;> split <;> simp [State.selfBegun, State.joinBegun]

/-- LEAVE keeps at most the entry in front, for no other has begun, and the BYE stands behind it. -/
theorem State.byeQueued_txKept {s : State} (silent : s.sender.pending = none) : TxKept s s.byeQueued := by
  rintro ⟨-, front, -, -⟩
  have none_fresh : s.byeQueued.tx.entries.countP TxEntry.freshLevel = 0 := by
    simp +contextual [State.byeQueued, TxEntry.freshLevel, TxEntry.isLevel]
  have kept : s.tx.entries.filter (·.begun) = [] ∨ ∃ e, s.tx.entries.filter (·.begun) = [e] := by
    cases entries : s.tx.entries with
    | nil => exact .inl rfl
    | cons e rest =>
      rw [entries] at front
      rw [List.filter_cons, List.filter_eq_nil_iff.2 fun x hx => by simp [front x hx]]
      split
      exacts [.inr ⟨e, rfl⟩, .inl rfl]
  refine ⟨?_, ?_, none_fresh.trans_le (Nat.zero_le 1), fun pending => ?_⟩
  · rcases kept with none_kept | ⟨e, one⟩ <;> simp [State.byeQueued, *]
  · rcases kept with none_kept | ⟨e, one⟩ <;> simp [State.byeQueued, *]
  · rw [State.byeQueued, silent] at pending
    cases pending

theorem State.leaveTalking_txKept (s : State) : TxKept s s.leaveTalking := by
  obtain ⟨tx, -, -, sender⟩ := State.revote_silent (s := s.leaveBegun) rfl
  have silent : s.leaveBegun.revote.sender.pending = none := by rw [sender]; rfl
  rw [State.leaveTalking_eq]
  refine .trans (.of_silent (by rw [tx]; rfl) silent) (.trans (State.byeQueued_txKept silent) ?_)
  refine .trans (State.wake_txKept _) ?_
  rw [State.queueBye_eq]
  split
  exacts [.of_eq, State.enterDefer_txKept _, .refl _]

/-- A listener's LEAVE completes, or leaves the queue as it is until its completion is made. -/
theorem State.leaveListening_txKept (s : State) : TxKept s s.leaveListening := by
  by_cases between : s.merge.pass = none
  · rw [State.leaveListening_between between]
    exact .trans (.of_eq (by simp [State.listenerLeaves]) (by simp [State.listenerLeaves])) (State.completeLeave_txKept _)
  · rw [State.leaveListening_inPass between]
    exact .trans (.of_eq (by simp [State.leaveHeld, State.listenerLeaves]) (by simp [State.leaveHeld, State.listenerLeaves]))
      (State.revote_txKept _)

end Sys2Proof.Machine
end

section
namespace Sys2Proof.Machine

/-! ### A command keeps the law of the Transmit Queue -/

theorem TxKept.unlessReset {s t v : State} (started : TxKept s t) (made : TxKept s v) : TxKept s (t.unlessReset v) :=
  .ite started made

theorem TxKept.orHold {s t v : State} (h : HeldChange) (started : TxKept s t) (made : TxKept s v) :
    TxKept s (t.orHold h v) := .ite (.trans started .of_eq) made

theorem TxKept.onPort {s t v : State} (started : TxKept s t) (taken : TxKept s v) : TxKept s (t.onPort v) := by
  rcases t.onPort_cases v with takes | ⟨port, refused⟩
  · rwa [takes]
  · rw [refused]; exact .trans started .of_eq

theorem TxKept.command {s t v : State} (started : TxKept s t) (taken : TxKept s v) : TxKept s (t.command v) :=
  .onPort started (.ite taken (.trans started .of_eq))

theorem TxKept.configCommand {s t v : State} (started : TxKept s t) (taken : TxKept s v) : TxKept s (t.configCommand v) :=
  .command started (.ite taken (.trans started .of_eq))

theorem TxKept.answer {s t : State} (h : TxKept s t) (r : Result) (data : List Byte) : TxKept s (t.answer r data) :=
  .trans h .of_eq

theorem State.advance_txKept (s : State) (t : Nat) : TxKept s (s.advance t) := .of_eq

theorem State.resumeEngine_txKept (s : State) : TxKept s s.resumeEngine := by
  simp only [State.resumeEngine]
  split
  exacts [.of_eq, .ite .of_eq s.enterDefer_txKept, .refl s]

/-- A TRIGGER joins where a place is free, and is refused otherwise. -/
theorem State.queueTrigger_txKept (s : State) (item : TriggerItem) : TxKept s (s.queueTrigger item) := by
  intro law
  simp only [State.queueTrigger]
  split
  next => exact TxKept.of_eq (s := s) rfl rfl law
  next room =>
    exact TxKept.answer (.refl _) _ _
      (law.enqueue (Nat.not_le.1 fun full => room (s.tx.full_iff.2 full)) (e := s.triggerEntry item) rfl nofun)

/-- The Level Sender asks for a LEVEL as it changes its own state or restarts a timer. -/
theorem State.askLevel_txKept {s a : State} {hold : Bool} (tx : a.tx = s.tx := by simp)
    (pending : a.sender.pending = s.sender.pending := by simp) : TxKept s (a.queueLevel hold) :=
  .trans (.of_eq (by rw [tx]) pending) (a.queueLevel_txKept hold)

theorem State.checkLevel_txKept (s : State) : TxKept s s.checkLevel := .ite State.askLevel_txKept (.ite .of_eq (.refl s))

theorem exec_joinWindowExpiry_txKept {s u : State} (taken : exec .joinWindowExpiry s = .next u) : TxKept s u := by
  cases taken
  refine .unlessReset (.refl s) ?_
  split
  next started _ =>
    have voted : TxKept s (s.windowEnded started).revote :=
      .trans (.of_eq (by simp [State.windowEnded]) (by simp [State.windowEnded])) (State.revote_txKept _)
    have begins : TxKept (s.windowEnded started).revote (s.windowEnded started).revote.startSender := State.askLevel_txKept
    exact .ite voted (voted.trans begins)
  next => exact .refl s

theorem State.reportCompleted_txKept (s : State) (e : TxEntry) (groupEnds : Bool) :
    TxKept s (s.reportCompleted e groupEnds) := by
  cases page : e.isPage with
  | true => rw [State.reportCompleted_page s page]; exact .ite (s.groupOver_txKept true) (.refl s)
  | false => rw [State.reportCompleted_other s page]; exact .of_eq

theorem exec_attemptCompletes_txKept {s u : State} (taken : exec .attemptCompletes s = .next u) : TxKept s u := by
  simp only [exec, execAttemptCompletes] at taken
  split at taken
  next burst since e rest drive entries =>
    cases taken
    intro law
    generalize hp : State.mk .. = p
    have left : p.QueueSound := law.leave_front (by simp [← hp]) (by simp [← hp])
    have offered (b : FifoEntry) : TxKept (p.settleWaiting.nextEntry s.tx.groupEnds)
        ((p.settleWaiting.nextEntry s.tx.groupEnds).offerBurst b) := .of_eq
    exact State.reportCompleted_txKept _ _ _ (offered _ (left.movesOn _))
  next => cases taken; exact .refl s

theorem exec_staleDeadline_txKept {s u : State} {index : Nat} (taken : exec (.staleDeadline index) s = .next u) :
    TxKept s u := by
  simp only [exec, execStaleDeadline] at taken
  split at taken
  next item q deadline sequence attempts begun there =>
    have inside := (List.getElem?_eq_some_iff.1 there).1
    split at taken <;> cases taken
    · exact .refl s
    · generalize hc : (if index = 0 ∧ (s.advance deadline).tx.engine = .suspending .driving then (s.advance deadline).cutDrive
        else s.advance deadline) = cut
      have tx : cut.tx = s.tx := by rw [← hc]; split <;> simp
      have kept : TxKept s cut := by rw [← hc]; exact .ite .of_eq .of_eq
      exact .ite kept (kept.trans (State.dropStale_txKept (by rwa [tx]) item))
  next => cases taken; exact .refl s

theorem exec_txKept {c : Instr} {s u : State} (taken : exec c s = .next u) : TxKept s u := by
  have stays : TxKept s s := .refl s
  cases c with
  | powerOnReset t => cases taken; exact fun _ => State.txLaw_of_empty rfl rfl
  | restart t => cases taken; exact .command .of_eq fun _ => State.txLaw_of_empty rfl rfl
  | rstNFall => cases taken; exact .of_eq
  | haltNChange t low =>
    simp only [exec, execHaltNChange] at taken
    split at taken <;> cases taken
    exacts [.of_eq, .unlessReset .of_eq (.trans .of_eq (State.revote_txKept _))]
  | setTiming | clearProfiles | setStage => cases taken; exact .configCommand stays .of_eq
  | setStation | defineAxis => cases taken; exact .configCommand stays (.ite .of_eq .of_eq)
  | defineChannel channel policy =>
    cases taken
    refine .configCommand stays ?_
    cases Policy.ofCode policy.toNat
    exacts [.of_eq, .ite .of_eq .of_eq]
  | storeProfile profile stretch endMode =>
    cases taken
    refine .onPort stays (.ite .of_eq (.configCommand stays (.ite .of_eq ?_)))
    cases EndMode.ofCode endMode.toNat
    exacts [.of_eq, .ite .of_eq (.ite .of_eq .of_eq)]
  | routeAlerts cls route =>
    cases taken
    refine .configCommand stays ?_
    cases EventClass.ofCode cls.toNat <;> cases Route.ofCode route.toNat <;> exact .of_eq
  | profileWriteComplete =>
    simp only [exec, execProfileWriteComplete] at taken
    split at taken <;> cases taken
    exacts [.unlessReset stays .of_eq, stays]
  | transactionEnd => cases taken; exact .ite .of_eq .of_eq
  | status => cases taken; exact .onPort stays .of_eq
  | unknownCommand | takeOutput | takeChannels => cases taken; exact .command stays .of_eq
  | peer | takeEvents | quiet => cases taken; exact .command stays (.ite .of_eq .of_eq)
  | post => cases taken; exact .onPort stays (.ite .of_eq (.command stays (.ite .of_eq (.ite .of_eq .of_eq))))
  | join t => cases taken; exact .configCommand .of_eq (.answer (.trans (s.advance_txKept t) (State.joinNow_txKept _)) _ _)
  | leave t =>
    cases taken
    have began := s.advance_txKept t
    exact .command began (.ite (.answer (.ite (began.trans (State.leaveListening_txKept _))
      (began.trans (State.leaveTalking_txKept _))) _ _) (began.answer _ _))
  | speak => cases taken; exact .command .of_eq (.ite (.answer (.trans .of_eq (State.resumeEngine_txKept _)) _ _) .of_eq)
  | fire t =>
    cases taken
    exact .command .of_eq (.ite .of_eq (.ite .of_eq ((s.advance_txKept t).trans (State.queueTrigger_txKept _ _))))
  | cancel t =>
    cases taken
    exact .command .of_eq (.ite ((s.advance_txKept t).trans (State.queueTrigger_txKept _ _)) .of_eq)
  | askMode t mode =>
    cases taken
    refine .command .of_eq ?_
    cases Mode.ofCode mode.toNat
    exacts [.of_eq, .answer (.trans .of_eq (State.revote_txKept _)) _ _]
  | outputPeriodExpiry order whole =>
    cases taken
    have begun := s.finishPass_txKept.trans (State.beginPass_txKept _ order)
    exact .unlessReset stays (.ite (begun.trans (State.finishPass_txKept _)) begun)
  | silenceTimerExpiry x =>
    simp only [exec, execSilenceTimerExpiry] at taken
    split at taken <;> cases taken
    exacts [.unlessReset stays (.orHold _ .of_eq (.trans (s.advance_txKept _) (State.losePeer_txKept _ x))), stays]
  | forgetTimerExpiry x =>
    simp only [exec, execForgetTimerExpiry] at taken
    split at taken <;> cases taken
    exacts [.unlessReset stays (.orHold _ .of_eq (.trans (s.advance_txKept _) (State.forgetPeer_txKept _ x))), stays]
  | assemblyTimeLimit x =>
    simp only [exec, execAssemblyTimeLimit] at taken
    split at taken <;> cases taken
    exacts [.unlessReset stays .of_eq, stays]
  | announceHoldOffExpiry =>
    simp only [exec, execAnnounceHoldOffExpiry] at taken
    split at taken <;> cases taken
    exacts [.unlessReset stays (.ite (.trans .of_eq (State.queueGroup_txKept _)) .of_eq), stays]
  | joinWindowExpiry => exact exec_joinWindowExpiry_txKept taken
  | levelIntervalExpiry =>
    simp only [exec, execLevelIntervalExpiry] at taken
    split at taken <;> cases taken
    exacts [.unlessReset stays (.ite (.trans .of_eq (State.checkLevel_txKept _)) stays), stays]
  | refreshTimerExpiry =>
    simp only [exec, execRefreshTimerExpiry] at taken
    split at taken <;> cases taken
    exacts [.unlessReset stays State.askLevel_txKept, stays]
  | staleDeadline index => exact exec_staleDeadline_txKept taken
  | carrierStart | runEnd => cases taken; exact .ite .of_eq .of_eq
  | gapEnd =>
    simp only [exec, execGapEnd] at taken
    split at taken <;> cases taken
    exacts [.ite (.trans .of_eq (State.startAttempt_txKept _ _)) .of_eq, stays]
  | echoCheck heard =>
    simp only [exec, execEchoCheck] at taken
    split at taken
    · split at taken <;> cases taken
      · exact .of_eq
      · generalize hf : State.attemptFailed _ = failed
        have kept : TxKept s failed := by rw [← hf]; exact .trans .of_eq (State.attemptFailed_txKept _)
        exact .ite (.trans (kept.trans .of_eq) (State.enterFault_txKept _)) kept
    · cases taken; exact stays
  | collision bit =>
    simp only [exec, execCollision] at taken
    split at taken
    · split at taken <;> cases taken
      exacts [.of_eq, stays]
    · cases taken; exact stays
  | jamEnd =>
    simp only [exec, execJamEnd] at taken
    split at taken <;> cases taken
    exacts [.ite (.trans .of_eq (State.dropCurrent_txKept _ _)) (.trans .of_eq (State.attemptFailed_txKept _)), stays]
  | backoffWaitEnd =>
    simp only [exec, execBackoffWaitEnd] at taken
    split at taken <;> cases taken
    exacts [.ite ((s.advance_txKept _).trans (State.enterDefer_txKept _)) .of_eq, stays]
  | attemptCompletes => exact exec_attemptCompletes_txKept taken
  | leaveCompletion => cases taken; exact .unlessReset stays (.ite (.orHold _ stays s.completeLeave_txKept) stays)
  | applyBurst => cases taken; exact .unlessReset stays (.orHold _ stays s.applyOldest_txKept)

/-- Settles O7: every operation on the queue keeps its law, a place that frees going to the pending LEVEL, and every command and
the end of a pass are made of such operations. -/
theorem txLawKept : Obligations.TxLawKept := by
  intro s t law taken
  simp only [step] at taken
  split at taken
  next c rest _ => exact exec_txKept (s := { s with pending := rest }) taken law
  next => cases taken; exact s.finishPass_txKept law

end Sys2Proof.Machine
end

section
namespace Sys2Proof.Machine

/-! ### QUIET and SPEAK (R126, R127) -/

/-- What SPEAK makes of the engine: a SUSPENDED one with an entry turns to it, and nothing else touches the line. -/
theorem State.resumeEngine_spec (s : State) :
    (∀ w, s.tx.engine = .suspending w → s.resumeEngine = { s with tx := { s.tx with engine := .working w } }) ∧
    (s.tx.engine = .suspended → s.tx.entries = [] → s.resumeEngine = { s with tx := { s.tx with engine := .idle } }) ∧
    (s.tx.engine = .suspended → s.tx.entries ≠ [] → s.resumeEngine = s.enterDefer) ∧
    (s.tx.engine ≠ .suspended → (∀ w, s.tx.engine ≠ .suspending w) → s.resumeEngine = s) := by
  cases engine : s.tx.engine <;> simp +contextual [State.resumeEngine, engine]

/-- The node as SPEAK at the instant `t` finds its engine. -/
def State.unquieted (s : State) (t : Nat) : State :=
  { s with now := max s.now t, node := { s.node with quiet := false } }

theorem exec_speak {s : State} (t : Nat) (port : s.Open) (talks : s.activeTalking = true) :
    exec (.speak t) s = .next ((s.unquieted t).resumeEngine.answer .ok) := by
  simp only [exec, execSpeak, State.command_open (s := s.advance t) port]
  exact congrArg Host.Outcome.next (if_pos talks)

theorem exec_quiet {s : State} (port : s.Open) (talks : s.activeTalking = true) : exec .quiet s = .next { s with
    node := { s.node with quiet := true }, tx := { s.tx with engine := s.tx.engine.quieted }, port := s.port.answered [0] } := by
  simp only [exec, execQuiet, State.command_open port, if_pos talks]
  rfl

/-- Settles O41: both commands are taken, and each state of the engine is a case of its own. -/
theorem quietAndSpeak : Obligations.QuietAndSpeak := by
  intro s port active station
  have talks : s.activeTalking = true := State.activeTalking_iff.2 ⟨active, station⟩
  refine ⟨⟨s.tx.engine.quieted, exec_quiet port talks, fun idle => ?_, fun w working => ?_, fun busy still => ?_⟩,
    fun t => ⟨_, exec_speak t port talks, ?_⟩⟩
  · rw [idle]; rfl
  · rw [working]; rfl
  · cases engine : s.tx.engine with
    | idle => exact absurd engine busy
    | working w => exact absurd engine (still w)
    | _ => rfl
  · obtain ⟨suspending, empty, queued, other⟩ := (s.unquieted t).resumeEngine_spec
    refine ⟨by simp [State.unquieted], fun w at_w => ?_, fun paused none_queued => ?_, fun paused more => ?_,
      fun awake goes_on => ?_, ?_⟩
    · rw [suspending w at_w]; exact ⟨rfl, rfl, rfl⟩
    · rw [empty paused none_queued]; exact ⟨rfl, rfl, rfl⟩
    · rw [queued paused more]
      have turns : s.TurnsToDefer (s.unquieted t).enterDefer := (State.enterDefer_turns _).congr rfl rfl rfl rfl rfl rfl
      exact turns
    · rw [other awake goes_on]; exact ⟨rfl, rfl, rfl⟩
    · apply State.eq_of_fields <;> simp [State.unquieted]
      rfl

/-! ### FIRE and CANCEL (R117, R120, R161) -/

/-- An attempt of an entry that is no page 0 leaves the bodies of the queue and the announce record as they are. -/
theorem State.QueueIs.bodies {u : State} {queue : List TxEntry} {announce : Announce} (is : u.QueueIs queue announce)
    (other : ∀ e, queue.head? = some e → e.isPage0 = false) :
    u.tx.entries.map (·.body) = queue.map (·.body) ∧ u.announce = announce := by
  rcases is with ⟨rfl, same⟩ | ⟨-, e, rest, e', rfl, entries, -, -, kept, -⟩
  · exact ⟨rfl, same⟩
  · obtain ⟨body, same⟩ := kept (other e rfl)
    exact ⟨by simp [entries, body], same⟩

theorem State.enqueue_positions (s : State) (e : TxEntry) :
    (s.enqueue e).tx.current = s.tx.current ∧ (s.enqueue e).tx.last = (s.tx.last + 1) % 8 := by
  simp only [State.enqueue, State.wake]
  split
  exacts [State.enterDefer_positions _, ⟨rfl, rfl⟩]

/-- An idle engine has nothing queued, so that a TRIGGER that joins is its current entry. -/
theorem State.enqueue_trigger {s : State} (idle : s.tx.engine = .idle → s.tx.entries = []) {e : TxEntry}
    (trigger : e.isPage = false) :
    (s.enqueue e).tx.entries.map (·.body) = s.tx.entries.map (·.body) ++ [e.body] ∧ (s.enqueue e).announce = s.announce ∧
    (s.tx.engine = .idle → (s.enqueue e).tx.engine = .working .defer ∨ (s.enqueue e).tx.engine = .working .driving) ∧
    (s.tx.engine ≠ .idle → (s.enqueue e).tx.engine = s.tx.engine ∧ (s.enqueue e).line = s.line) := by
  by_cases turns : s.tx.engine = .idle
  · have empty := idle turns
    obtain ⟨bodies, announce⟩ := (s.enqueue_queueIs e).bodies fun first at_front => by
      have same : e = first := by simpa [empty] using at_front
      subst same
      cases body : e.body <;> simp [TxEntry.isPage, TxEntry.isPage0, body] at trigger ⊢
    refine ⟨by simpa using bodies, announce, fun _ => ?_, fun busy => absurd turns busy⟩
    have turned := State.enterDefer_engine { s with tx := s.tx.push e }
    rw [State.enqueue, State.wake, if_pos ⟨turns, by simp⟩]
    simpa only [Tx.push, turns, Engine.at] using turned
  · rw [State.enqueue, State.wake_busy (by exact turns)]
    exact ⟨by simp, rfl, fun h => absurd h turns, fun _ => ⟨rfl, rfl⟩⟩

/-- FIRE and CANCEL taken come to the queueing of their item; a FIRE out of range is refused. -/
theorem exec_fire {s : State} (t : Nat) {channel event profile amplitude priority lead : Byte} (port : s.Open)
    (talks : s.activeTalking = true) :
    (channel.toNat ≤ 15 → profile.toNat ≤ 15 → priority.toNat ≤ 3 →
      exec (.fire t channel event profile amplitude priority lead) s = .next ((s.advance t).queueTrigger
        (.start channel.toNat event.toNat profile.toNat amplitude.toNat priority.toNat lead.toNat))) ∧
    (15 < channel.toNat ∨ 15 < profile.toNat ∨ 3 < priority.toNat →
      exec (.fire t channel event profile amplitude priority lead) s = .next ((s.advance t).answer .param)) := by
  have talks_at : (s.advance t).activeTalking = true := talks
  simp only [exec, execFire, State.command_open (s := s.advance t) port, talks_at, Bool.not_true, Bool.false_eq_true, if_false]
  refine ⟨fun c p q => ?_, fun out => by rw [if_pos out]⟩
  rw [if_neg]
  omega

theorem exec_cancel {s : State} (t : Nat) (event : Byte) (port : s.Open) (talks : s.activeTalking = true) :
    exec (.cancel t event) s = .next ((s.advance t).queueTrigger (.cancel event.toNat)) := by
  simp only [exec, execCancel, State.command_open (s := s.advance t) port]
  exact congrArg Host.Outcome.next (if_pos talks)

/-- Settles O43: both commands come to the queueing of one item, which a full queue refuses. -/
theorem fireAndCancelQueueATrigger : Obligations.FireAndCancelQueueATrigger := by
  intro s t c item port active station idle command
  have talks : s.activeTalking = true := State.activeTalking_iff.2 ⟨active, station⟩
  have taken : exec c s = .next ((s.advance t).queueTrigger item) := by
    rcases command with ⟨channel, event, profile, amplitude, priority, lead, rfl, h1, h2, h3, rfl⟩ | ⟨event, rfl, rfl⟩
    · exact (exec_fire t port talks).1 h1 h2 h3
    · exact exec_cancel t event port talks
  refine ⟨fun room => ?_, fun full => ?_, fun channel event profile amplitude priority lead out =>
    (exec_fire t port talks).2 out⟩
  · have joins : (s.advance t).queueTrigger item =
        ((s.advance t).enqueue ((s.advance t).triggerEntry item)).answer .ok :=
      if_neg fun full => Nat.not_le.2 room ((s.advance t).tx.full_iff.1 full)
    rw [joins] at taken
    obtain ⟨bodies, announce, turns, stays⟩ := State.enqueue_trigger (s := s.advance t) idle
      (e := (s.advance t).triggerEntry item) rfl
    obtain ⟨current, last⟩ := (s.advance t).enqueue_positions ((s.advance t).triggerEntry item)
    refine ⟨_, taken, ?_, turns, stays, current, last, ?_⟩
    · rw [← ms_eq]
      simpa [State.triggerEntry] using bodies
    · apply State.eq_of_fields <;> simp [announce]
      rfl
  · rw [taken]
    exact congrArg Host.Outcome.next (if_pos ((s.advance t).tx.full_iff.2 full))

end Sys2Proof.Machine
end

section
namespace Sys2Proof.Machine

/-! ### A TRIGGER past its deadline (R118, R119, R120, R125, R126) -/

/-- The deadline passes: a STOPPED engine takes no notice, one in DRIVING runs its attempt out, and otherwise the entry is
dropped, off the line where SUSPENDING was driving it. -/
theorem exec_staleDeadline {s : State} {i : Nat} {e : TxEntry} {item : TriggerItem} {queued deadline : Nat}
    (high : s.inReset = false) (there : s.tx.entries[i]? = some e) (body : e.body = .trigger item queued deadline) :
    exec (.staleDeadline i) s = .next (if s.tx.engine = .stopped then s
      else if i = 0 ∧ s.tx.engine = .working .driving then s.advance deadline
      else State.dropStale (if i = 0 ∧ s.tx.engine = .suspending .driving then (s.advance deadline).cutDrive
        else s.advance deadline) i item) := by
  obtain ⟨_, sequence, attempts, begun⟩ := e
  subst body
  simp only [exec, execStaleDeadline, there, high, Bool.false_eq_true, false_or]
  split
  · rfl
  · refine congrArg Host.Outcome.next ?_
    by_cases drives : i = 0 ∧ s.tx.engine = .suspending .driving
    · obtain ⟨rfl, suspending⟩ := drives
      simp [suspending]
    · simp only [State.advance_frame, if_neg drives]

/-- The deadline has been reached, with this line. -/
def State.dueOn (s : State) (deadline : Nat) (line : Line) : State := { s with now := max s.now deadline, line }

/-- A stale deadline that is acted on leaves of the line no drive of SUSPENDING, and otherwise the line as it is. -/
theorem exec_staleDeadline_drops {s : State} {i : Nat} {e : TxEntry} {item : TriggerItem} {queued deadline : Nat}
    (high : s.inReset = false) (there : s.tx.entries[i]? = some e) (body : e.body = .trigger item queued deadline)
    (runs : s.tx.engine ≠ .stopped) (free : i = 0 → s.tx.engine ≠ .working .driving) :
    ∃ line, exec (.staleDeadline i) s = .next ((s.dueOn deadline line).dropStale i item) ∧
      (i = 0 → s.tx.engine = .suspending .driving → line.drive = .idle) ∧ (1 ≤ i → line = s.line) := by
  rw [exec_staleDeadline high there body, if_neg runs, if_neg fun h => free h.1 h.2]
  have cut : (s.advance deadline).cutDrive = s.dueOn deadline (s.advance deadline).cutDrive.line := by
    apply State.eq_of_fields <;> simp [State.dueOn]
  by_cases drives : i = 0 ∧ s.tx.engine = .suspending .driving
  · rw [if_pos drives]
    exact ⟨_, congrArg (fun c => Host.Outcome.next (State.dropStale c i item)) cut, fun _ _ => State.cutDrive_idle _,
      fun behind => absurd drives.1 (Nat.ne_of_gt behind)⟩
  · rw [if_neg drives]
    exact ⟨s.line, rfl, fun first at_work => absurd ⟨first, at_work⟩ drives, fun _ => rfl⟩

theorem State.nextEntry_still {s : State} (still : ¬s.tx.engine.AtWork) (groupOver : Bool) : s.nextEntry groupOver = s := by
  cases engine : s.tx.engine with
  | working w => exact absurd ⟨w, .inl engine⟩ still
  | suspending w => exact absurd ⟨w, .inr engine⟩ still
  | _ => simp only [State.nextEntry, engine]

/-- Settling with a free place leaves no LEVEL pending, an idle engine's queue too. -/
theorem State.settleWaiting_sender {s : State} (room : s.tx.entries.length < 8) :
    s.settleWaiting.sender = { s.sender with pending := none } := by
  have joins (t : State) : (if t.announce.waiting then t.joinGroup else t).sender = t.sender := by split <;> simp
  have free : s.tx.full = false := decide_eq_false (Nat.not_le.2 room)
  cases held : s.sender.pending with
  | none => simp only [State.settleWaiting, held, joins]; rw [← held]
  | some hold => simp only [State.settleWaiting, held, free, joins]; simp

@[simp] theorem State.dropStale_record (s : State) (i : Nat) (item : TriggerItem) :
    (s.dropStale i item).counters = { s.counters with txDropped := min 65535 (s.counters.txDropped + 1) } ∧
    (s.dropStale i item).events = s.events.offer (s.staleRecord item) := by
  rw [State.dropStale_eq]
  dsimp only
  split <;> simp [State.dropMade]

/-- What stands in the queue stands at its front still when the freed places have been taken. -/
theorem State.settleWaiting_front {s : State} (busy : s.tx.engine ≠ .idle) (room : s.tx.entries.length < 8) :
    s.tx.entries <+: s.settleWaiting.tx.entries := by
  have engine : s.heldTaken.tx.engine = s.tx.engine := (foldl_push_kept s.heldLevel s.tx).1
  have held : s.tx.entries <+: s.heldTaken.tx.entries := by simp [State.heldTaken, foldl_push]
  rw [State.settleWaiting_eq busy room, State.joinGroup_eq (engine ▸ busy)]
  split
  · split
    exacts [held.trans (by simp [foldl_push]), held]
  · exact held

theorem Tx.remove_kept (tx : Tx) (i : Nat) : (tx.remove i).engine = tx.engine := by
  simp only [Tx.remove]
  split
  · exact tx.pop_kept.1
  · split <;> rfl

/-- The TRIGGER entry `i` has left, counted and reported, and the freed place is still to be given. -/
def State.staleGone (s : State) (i : Nat) (item : TriggerItem) : State := s.dropMade (s.tx.remove i) (s.staleRecord item)

section
variable {s : State} {i : Nat} (inside : i < s.tx.entries.length) (size : s.tx.entries.length ≤ 8) (item : TriggerItem)
include inside size

theorem State.staleGone_spec : (s.staleGone i item).tx.engine = s.tx.engine ∧
    (s.staleGone i item).tx.entries = s.tx.entries.eraseIdx i ∧ (s.staleGone i item).tx.entries.length < 8 := by
  have entries : (s.staleGone i item).tx.entries = s.tx.entries.eraseIdx i := Tx.remove_entries inside
  refine ⟨s.tx.remove_kept i, entries, ?_⟩
  rw [entries, List.length_eraseIdx_of_lt inside]
  omega

theorem State.dropStale_sender : (s.dropStale i item).sender = { s.sender with pending := none } := by
  obtain ⟨-, -, room⟩ := State.staleGone_spec inside size item
  have settled := State.settleWaiting_sender room
  rw [State.dropStale_eq]
  dsimp only
  split
  · simp only [State.nextEntry_frame]
    exact settled
  · exact settled

theorem State.dropStale_refills (busy : s.tx.engine ≠ .idle) : s.Refilled (s.dropStale i item) (s.tx.entries.eraseIdx i) := by
  obtain ⟨engine, entries, room⟩ := State.staleGone_spec inside size item
  have still_refills : s.Refilled (s.staleGone i item).settleWaiting (s.tx.entries.eraseIdx i) := by
    rw [← entries]
    exact State.settleWaiting_refills (s := s.staleGone i item) (engine ▸ busy) room (.inl ⟨rfl, rfl⟩)
      (by rw [State.settleWaiting_sender room])
  rw [State.dropStale_eq]
  dsimp only
  split
  · by_cases work : s.tx.engine.AtWork
    · obtain ⟨refilled, -⟩ := State.movesOn_spec (s := s.staleGone i item) (engine ▸ work) room true
      rw [← entries]
      exact refilled
    · have settled := (State.settleWaiting_busy (s := s.staleGone i item) (engine ▸ busy) room).1.trans engine
      exact (State.nextEntry_still (s := (s.staleGone i item).settleWaiting) (settled ▸ work) true).symm ▸ still_refills
  · exact still_refills

/-- A TRIGGER that leaves from behind the current entry leaves the engine and the line alone. -/
theorem State.dropStale_behind (behind : 1 ≤ i) (busy : s.tx.engine ≠ .idle) :
    let u := s.dropStale i item
    u.tx.engine = s.tx.engine ∧ u.tx.current = s.tx.current ∧ u.line = s.line ∧ u.tx.entries.head? = s.tx.entries.head? ∧
      (s.announce.waiting = false → u.tx.entries = s.tx.entries.eraseIdx i ++ s.heldLevel) := by
  obtain ⟨engine, entries, room⟩ := State.staleGone_spec inside size item
  obtain ⟨settled, line, -, -⟩ := State.settleWaiting_busy (s := s.staleGone i item) (engine ▸ busy) room
  have dropped : s.dropStale i item = (s.staleGone i item).settleWaiting := if_neg (by omega)
  simp only [dropped]
  refine ⟨settled.trans engine, ?_, line, ?_, fun alone => ?_⟩
  · rw [State.settleWaiting_current]
    simp only [State.staleGone, State.dropMade, Tx.remove, if_neg (show ¬i = 0 by omega), if_pos inside]
  · obtain ⟨joined, h⟩ := State.settleWaiting_front (s := s.staleGone i item) (engine ▸ busy) room
    rw [← h, entries]
    obtain ⟨j, rfl⟩ : ∃ j, i = j + 1 := ⟨i - 1, by omega⟩
    cases queue : s.tx.entries with
    | nil => simp [queue] at inside
    | cons first rest => simp
  · rw [← entries]
    exact (State.settleWaiting_held (s := s.staleGone i item) (engine ▸ busy) room alone).1

end

/-- With nothing held outside the queue, the entries behind it move up and that is all. -/
theorem State.dropStale_alone {s : State} {i : Nat} (inside : i < s.tx.entries.length) (item : TriggerItem) (behind : 1 ≤ i)
    (none_held : s.sender.pending = none) (alone : s.announce.waiting = false) : (s.dropStale i item).tx =
      { s.tx with entries := s.tx.entries.eraseIdx i, last := (s.tx.last + 7) % 8 } := by
  have later : ¬i = 0 := Nat.ne_of_gt behind
  rw [State.dropStale_eq]
  simp only [if_neg later]
  rw [State.settleWaiting_none (by exact none_held) (by exact alone)]
  simp only [State.dropMade, Tx.remove, if_neg later, if_pos inside]
  rfl

/-- Where the current TRIGGER leaves, the engine moves on. -/
theorem State.dropStale_current {s : State} (inside : 0 < s.tx.entries.length) (size : s.tx.entries.length ≤ 8)
    (item : TriggerItem) :
    let u := s.dropStale 0 item
    s.MovedOn u ∧ u.tx.current = (s.tx.current + 1) % 8 ∧ (s.tx.engine.AtWork → u.line.wait = .none) ∧
      (∀ w, s.tx.engine = .suspending w → u.line.drive = s.line.drive) := by
  obtain ⟨engine, -, room⟩ := State.staleGone_spec inside size item
  have dropped : s.dropStale 0 item = (s.staleGone 0 item).settleWaiting.nextEntry true := rfl
  have current : (s.dropStale 0 item).tx.current = (s.tx.current + 1) % 8 := by
    rw [dropped, (State.nextEntry_positions _ _).1, State.settleWaiting_current]
    cases queue : s.tx.entries with
    | nil => simp [queue] at inside
    | cons first rest => simp [State.staleGone, State.dropMade, Tx.remove, Tx.pop, queue, Config.txPlaces]
  by_cases work : s.tx.engine.AtWork
  · obtain ⟨-, turned, moved, -⟩ := State.movesOn_spec (s := s.staleGone 0 item) (engine ▸ work) room true
    have moved : s.MovedOn (s.dropStale 0 item) := (moved rfl).congr engine
    refine ⟨moved, current, fun _ => by rw [dropped, turned.line_kept], fun w at_w => ?_⟩
    have paused := moved.2.1 w at_w
    rcases turned with ⟨-, line, -⟩ | ⟨-, -, drives, -⟩
    · exact congrArg (·.drive) line
    · rw [← dropped, paused] at drives
      cases drives
  · refine ⟨⟨fun w at_w => absurd ⟨w, .inl at_w⟩ work, fun w at_w => absurd ⟨w, .inr at_w⟩ work, fun paused => ?_⟩, current,
      fun h => absurd h work, fun w at_w => absurd ⟨w, .inr at_w⟩ work⟩
    have busy : (s.staleGone 0 item).tx.engine ≠ .idle := by rw [engine, paused]; nofun
    have settled := (State.settleWaiting_busy busy room).1.trans engine
    rw [dropped, State.nextEntry_still (by rwa [settled]), settled, paused]

/-- Settles O50: the deadline is acted on or not by the engine, and what a drop does is told apart by the entry's place. -/
theorem staleTriggerIsDropped : Obligations.StaleTriggerIsDropped := by
  intro s i e item queued deadline high size there body
  refine ⟨fun stopped => ?_, fun first driving => ?_, fun runs free => ?_⟩
  · rw [exec_staleDeadline high there body, if_pos stopped]
  · rw [exec_staleDeadline high there body, if_neg (by rw [driving]; nofun), if_pos ⟨first, driving⟩]
    rfl
  · obtain ⟨line, taken, off, same⟩ := exec_staleDeadline_drops high there body runs free
    have inside : i < (s.dueOn deadline line).tx.entries.length := (List.getElem?_eq_some_iff.1 there).1
    have sender := State.dropStale_sender inside size item
    refine ⟨_, taken, ?_, ?_, ?_, sender, State.dropStale_refills inside size item, fun later busy => ?_,
      State.dropStale_alone inside item, ?_, ?_⟩
    · simp [State.dueOn]
    · simp [State.dueOn]
    · simp [State.dueOn, State.staleRecord]
    · obtain ⟨engine, current, line_kept, front, queue⟩ := State.dropStale_behind inside size item later busy
      exact ⟨engine, current, line_kept.trans (same later), front, queue⟩
    · rintro rfl
      obtain ⟨moved, current, wait, drive⟩ := State.dropStale_current inside size item
      exact ⟨moved, current, fun w at_w => wait ⟨w, at_w⟩, fun suspending => (drive _ suspending).trans (off rfl suspending)⟩
    · apply State.eq_of_fields <;> simp [State.dueOn]

end Sys2Proof.Machine
end

section
/-! Proofs of the statements of 08_access_to_the_cue_line.md. -/

namespace Sys2Proof.Machine

/-! ### The check value (R153) -/

/-- One bit into the check register, in the words of R153. -/
theorem crcBit_eq (reg : BitVec 16) (bit : Bool) :
    crcBit reg bit = if (bit ^^ reg.getLsbD 15) = true then reg <<< 1 ^^^ 0x1021 else reg <<< 1 := by
  simp only [crcBit, BitVec.msb_eq_getLsbD_last]

theorem crc16_append (bytes : List Byte) (b : Byte) : crc16 (bytes ++ [b]) = crcByte (crc16 bytes) b := by
  simp [crc16]

theorem checkValue_formed : CheckValueFormed := by
  refine ⟨rfl, fun bytes b => ?_⟩
  rw [crc16_append]
  simp only [crcByte, List.foldl_cons, List.foldl_nil, crcBit_eq]

theorem toNat_append (hi lo : Byte) : (hi ++ lo : BitVec 16).toNat = 256 * hi.toNat + lo.toNat := by
  rw [BitVec.toNat_append, ← Nat.shiftLeft_add_eq_or_of_lt lo.isLt, Nat.shiftLeft_eq, Nat.mul_comm]

/-- Two bytes are those of a value exactly where the two together are the value. -/
theorem pair_eq_bytes16_iff (hi lo : Byte) (w : BitVec 16) : [hi, lo] = bytes16 w.toNat ↔ hi ++ lo = w := by
  have high := hi.isLt
  have low := lo.isLt
  simp only [bytes16, List.cons.injEq, and_true, ← BitVec.toNat_inj, toNat_byte, toNat_append hi lo]
  omega

/-! ### Bits on the line (R137) -/

theorem byteBits_getElem? (b : Byte) {i : Nat} (h : i < 8) : (byteBits b)[i]? = some (b.getLsbD (7 - i)) := by
  match i, h with
  | 0, _ | 1, _ | 2, _ | 3, _ | 4, _ | 5, _ | 6, _ | 7, _ => rfl

/-- Bit `i` of a row of bytes on the line. -/
theorem flatMap_byteBits_getElem? (l : List Byte) (i : Nat) :
    (l.flatMap byteBits)[i]? = l[i / 8]?.map fun x => x.getLsbD (7 - i % 8) := by
  induction l generalizing i with
  | nil => rfl
  | cons b l ih =>
    rw [List.flatMap_cons]
    by_cases first : i < 8
    · rw [List.getElem?_append_left (by simpa using first), byteBits_getElem? b first, Nat.div_eq_of_lt first,
        Nat.mod_eq_of_lt first]
      rfl
    · obtain ⟨j, rfl⟩ : ∃ j, i = j + 8 := ⟨i - 8, by omega⟩
      rw [List.getElem?_append_right (by simp), byteBits_length, Nat.add_sub_cancel, ih, Nat.add_div_right _ (by decide),
        Nat.add_mod_right, List.getElem?_cons_succ]

theorem Burst.onLine_getElem? (b : Burst) (i : Nat) : b.onLine[i]? =
    (([0x55, 0x55, 0x55, 0x55, 0xB9] ++ b.header ++ b.payload.bytes ++
      bytes16 (crc16 (b.header ++ b.payload.bytes)).toNat)[i / 8]?).map fun x : Byte => x.getLsbD (7 - i % 8) := by
  rw [Burst.onLine, flatMap_byteBits_getElem?]
  simp [Burst.sent, Burst.bytes, preamble, startByte, List.replicate]

/-! ### A burst reads as it was formed (R148 to R152) -/

/-- Byte `j` of entry `i` where every entry takes `k` bytes. -/
theorem getD_flatMap {α : Type} {f : α → List Byte} {k : Nat} (size : ∀ a, (f a).length = k) {l : List α} {i j : Nat} {a : α}
    (entry : l[i]? = some a) (inside : j < k) : (l.flatMap f).getD (k * i + j) 0 = (f a).getD j 0 := by
  induction l generalizing i with
  | nil => cases entry
  | cons b l ih =>
    rw [List.flatMap_cons]
    cases i with
    | zero =>
      cases entry
      rw [List.getD_append _ _ _ _ (by rw [size]; omega), Nat.mul_zero, Nat.zero_add]
    | succ i =>
      rw [Nat.mul_succ, List.getD_append_right _ _ _ _ (by rw [size]; omega), size, show k * i + k + j - k = k * i + j by omega]
      exact ih entry

theorem length_flatMap_of_size {α : Type} {f : α → List Byte} {k : Nat} (size : ∀ a, (f a).length = k) (l : List α) :
    (l.flatMap f).length = k * l.length := by
  simp [List.length_flatMap, size, Nat.mul_comm]

theorem TriggerItem.bytes_length (item : TriggerItem) : item.bytes.length = 5 := by cases item <;> rfl

/-- An item is read from five bytes. -/
theorem TriggerItem.read_congr {b c : Nat → Byte} (same : ∀ k, k < 5 → b k = c k) :
    TriggerItem.read b = TriggerItem.read c := by
  simp only [TriggerItem.read, same 0 (by decide), same 1 (by decide), same 2 (by decide), same 3 (by decide),
    same 4 (by decide)]

/-- An item reads as it was formed. -/
theorem TriggerItem.read_bytes {item : TriggerItem} (fits : item.Fits) :
    item = TriggerItem.read fun k => item.bytes.getD k 0 := by
  cases item with
  | cancel event => simp [TriggerItem.read, TriggerItem.bytes, toNat_byte_of_lt fits]
  | start channel event profile amplitude priority lead =>
    obtain ⟨channel_le, event_lt, profile_le, amplitude_lt, priority_le, lead_lt⟩ := fits
    have action : (byte (16 * priority + channel)).getLsbD 7 = false := by
      rw [byte, BitVec.getLsbD_ofNat, Nat.testBit_lt_two_pow (by omega), Bool.and_false]
    simp only [TriggerItem.read, TriggerItem.bytes, List.getD_cons_zero, List.getD_cons_succ, action, toNat_byte]
    simp
    omega

theorem declarationsRead_bytes {decls : List Declaration} (fit : declarationsFit decls) :
    DeclarationsRead (byte decls.length :: declarationBytes decls) decls := by
  obtain ⟨few, ranges⟩ := fit
  refine ⟨few, ?_, toNat_byte_of_lt (by omega), fun i d entry => ?_⟩
  · rw [List.length_cons, declarationBytes, length_pairs, Nat.add_comm]
  · obtain ⟨channel, rank⟩ := getD_pairs [byte decls.length] [] (fun d : Declaration => byte d.1) (fun d => byte d.2) decls entry
    obtain ⟨channel_le, rank_lt⟩ := ranges d (List.mem_of_getElem? entry)
    rw [List.append_nil] at channel rank
    exact ⟨(congrArg BitVec.toNat channel).trans (toNat_byte_of_lt (by omega)), channel_le,
      (congrArg BitVec.toNat rank).trans (toNat_byte_of_lt rank_lt)⟩

theorem signedBytes_reads {x : Int} (low : -32768 ≤ x) (high : x ≤ 32767) :
    ((signedBytes x).getD 0 0 ++ (signedBytes x).getD 1 0 : BitVec 16).toInt = x := by
  have whole : word16 ((signedBytes x).getD 0 0) ((signedBytes x).getD 1 0) = BitVec.ofInt 16 x :=
    (word16_bytes16 _).trans (BitVec.ofNat_toNat _ _)
  rw [word16] at whole
  rw [whole, BitVec.toInt_ofInt, Int.bmod_eq_of_le] <;> omega

theorem levelRead_bytes {pairs : List (Nat × Int)} (fits : (Payload.level pairs).Fits) :
    (Payload.level pairs).ReadFrom (Payload.level pairs).bytes := by
  obtain ⟨ascending, ranges⟩ := fits
  have size (p : Nat × Int) : (byte p.1 :: signedBytes p.2).length = 3 := rfl
  refine ⟨length_flatMap_of_size size pairs, ascending, fun i p entry => ?_⟩
  obtain ⟨channel, low, high⟩ := ranges p (List.mem_of_getElem? entry)
  have at_ {j : Nat} (inside : j < 3) := getD_flatMap size entry inside
  have first := at_ (j := 0) (by decide)
  have second := at_ (j := 1) (by decide)
  have third := at_ (j := 2) (by decide)
  simp only [Payload.bytes]
  rw [second, third]
  exact ⟨(congrArg BitVec.toNat first).trans (toNat_byte_of_lt (by omega)), channel, signedBytes_reads low high⟩

/-- The payload of a burst reads as it was formed. -/
theorem Payload.readFrom_bytes {p : Payload} (fits : p.Fits) : p.ReadFrom p.bytes := by
  cases p with
  | page0 count role known decls =>
    obtain ⟨some_pages, few_pages, role_lt, fit⟩ := fits
    have page : (pageByte 0 count).toNat = count := (toNat_byte_of_lt (by omega)).trans (by omega)
    have mask : word16 (byte (known.toNat / 256)) (byte known.toNat) = known := (word16_bytes16 _).trans (by simp)
    exact ⟨page, some_pages, few_pages, toNat_byte_of_lt role_lt, mask, declarationsRead_bytes fit⟩
  | page index count decls =>
    obtain ⟨later, inside, few_pages, fit⟩ := fits
    exact ⟨toNat_byte_of_lt (by omega), later, inside, few_pages, declarationsRead_bytes fit⟩
  | level pairs => exact levelRead_bytes fits
  | trigger items =>
    obtain ⟨some_items, few_items, fit⟩ := fits
    refine ⟨some_items, few_items, length_flatMap_of_size TriggerItem.bytes_length items, fun i item entry => ?_⟩
    refine (TriggerItem.read_bytes (fit item (List.mem_of_getElem? entry))).trans (TriggerItem.read_congr fun k inside => ?_)
    exact (getD_flatMap TriggerItem.bytes_length entry inside).symm
  | bye => rfl

theorem Payload.kind_bounds (p : Payload) : 1 ≤ p.kind ∧ p.kind ≤ 4 := by
  cases p <;> simp [Payload.kind]

/-- A strictly ascending list of channels 0..15 names at most 16 of them. -/
theorem pairs_length_le {pairs : List (Nat × Int)} (ascending : pairs.Pairwise fun a b => a.1 < b.1)
    (channels : ∀ p ∈ pairs, p.1 ≤ 15) : pairs.length ≤ 16 := by
  have distinct : (pairs.map Prod.fst).Nodup := List.pairwise_map.2 (ascending.imp Nat.ne_of_lt)
  have within : pairs.map Prod.fst ⊆ List.range 16 := by
    intro c named
    obtain ⟨p, listed, rfl⟩ := List.mem_map.1 named
    exact List.mem_range.2 (Nat.lt_succ_of_le (channels p listed))
  simpa using (List.subperm_of_subset distinct within).length_le

theorem Payload.bytes_length_le {p : Payload} (fits : p.Fits) : p.bytes.length ≤ 48 := by
  have declared (decls : List Declaration) : (declarationBytes decls).length = 2 * decls.length := length_pairs _ _ decls
  cases p with
  | page0 count role known decls =>
    obtain ⟨-, -, -, few, -⟩ := fits
    simp only [Payload.bytes, bytes16, List.length_cons, List.length_append, List.length_nil, declared]
    omega
  | page index count decls =>
    obtain ⟨-, -, -, few, -⟩ := fits
    simp only [Payload.bytes, List.length_cons, declared]
    omega
  | level pairs =>
    obtain ⟨ascending, ranges⟩ := fits
    have few := pairs_length_le ascending fun p listed => (ranges p listed).1
    rw [Payload.bytes, length_flatMap_of_size (k := 3) fun _ => rfl]
    omega
  | trigger items =>
    obtain ⟨-, few, -⟩ := fits
    rw [Payload.bytes, length_flatMap_of_size TriggerItem.bytes_length]
    omega
  | bye => exact Nat.zero_le _

/-- A burst reads as it was formed. -/
theorem Burst.readFrom_own {b : Burst} (fits : b.Fits) : b.ReadFrom (byte (16 * b.payload.kind + b.source)) (byte b.seq)
    (byte (64 * b.request.code + if b.hold then 32 else 0)) (byte b.payload.bytes.length) b.payload.bytes := by
  obtain ⟨source_lt, seq_lt, payload⟩ := fits
  obtain ⟨-, kind_le⟩ := b.payload.kind_bounds
  have room := Payload.bytes_length_le payload
  have modes : ∀ (m : Mode) (hold : Bool), let third := byte (64 * m.code + if hold then 32 else 0)
      m.code = third.toNat / 64 ∧ hold = third.getLsbD 5 := by
    intro m hold
    cases m <;> cases hold <;> decide
  obtain ⟨request, hold⟩ := modes b.request b.hold
  exact ⟨toNat_byte_of_lt (by omega), by omega, (toNat_byte_of_lt seq_lt).symm, request, hold, toNat_byte_of_lt (by omega),
    Payload.readFrom_bytes payload⟩

/-! ### What reads as a burst is accepted (R145, R148 to R152, R154) -/

theorem parseDeclarations_of_reads {l : List Byte} {decls : List Declaration} (size : l.length = 2 * decls.length)
    (read : ∀ (i : Nat) (d : Declaration), decls[i]? = some d →
      (l.getD (2 * i) 0).toNat = d.1 ∧ d.1 ≤ 15 ∧ (l.getD (2 * i + 1) 0).toNat = d.2) :
    parseDeclarations l = some decls := by
  induction decls generalizing l with
  | nil => rw [List.length_eq_zero_iff.1 size]; rfl
  | cons d decls ih =>
    match l, size with
    | c :: r :: rest, size =>
      obtain ⟨channel, channel_le, rank⟩ := read 0 d rfl
      simp only [Nat.mul_zero, Nat.zero_add, List.getD_cons_zero, List.getD_cons_succ] at channel rank
      rw [parseDeclarations, if_pos (by omega), ih (by simpa [Nat.mul_succ] using size) fun i e entry => read (i + 1) e entry,
        channel, rank]
      rfl

theorem parseCounted_of_reads {l : List Byte} {decls : List Declaration} (read : DeclarationsRead l decls) :
    parseCounted l = some decls := by
  obtain ⟨few, size, count, entries⟩ := read
  cases l with
  | nil => simp at size; omega
  | cons n rest =>
    rw [List.getD_cons_zero] at count
    rw [List.length_cons] at size
    rw [parseCounted, if_pos (by omega)]
    refine parseDeclarations_of_reads (by omega) fun i d entry => ?_
    have := entries i d entry
    rwa [show 1 + 2 * i = 2 * i + 1 by omega, show 2 + 2 * i = 2 * i + 1 + 1 by omega, List.getD_cons_succ,
      List.getD_cons_succ] at this

theorem parseLevel_of_reads {l : List Byte} {pairs : List (Nat × Int)} (floor : Nat) (size : l.length = 3 * pairs.length)
    (ascending : pairs.Pairwise fun a b => a.1 < b.1) (above : ∀ p ∈ pairs, floor ≤ p.1)
    (read : ∀ (i : Nat) (p : Nat × Int), pairs[i]? = some p → (l.getD (3 * i) 0).toNat = p.1 ∧ p.1 ≤ 15 ∧
      (l.getD (3 * i + 1) 0 ++ l.getD (3 * i + 2) 0 : BitVec 16).toInt = p.2) :
    parseLevel floor l = some pairs := by
  induction pairs generalizing l floor with
  | nil => rw [List.length_eq_zero_iff.1 size]; rfl
  | cons p pairs ih =>
    match l, size with
    | c :: hi :: lo :: rest, size =>
      obtain ⟨channel, channel_le, value⟩ := read 0 p rfl
      simp only [Nat.mul_zero, Nat.zero_add, List.getD_cons_zero, List.getD_cons_succ] at channel value
      obtain ⟨least, ascending⟩ := List.pairwise_cons.1 ascending
      have low := above p List.mem_cons_self
      rw [parseLevel, if_pos (by omega), ih _ (by simpa [Nat.mul_succ] using size) ascending
        (fun q listed => by have := least q listed; omega) fun i e entry => read (i + 1) e entry, word16, channel, value]
      rfl

theorem parseItems_of_reads {l : List Byte} {items : List TriggerItem} (size : l.length = 5 * items.length)
    (read : ∀ (i : Nat) (item : TriggerItem), items[i]? = some item → item = TriggerItem.read fun k => l.getD (5 * i + k) 0) :
    parseItems l = some items := by
  induction items generalizing l with
  | nil => rw [List.length_eq_zero_iff.1 size]; rfl
  | cons item items ih =>
    match l, size with
    | b0 :: b1 :: b2 :: b3 :: b4 :: rest, size =>
      have first : item = parseItem b0 b1 b2 b3 b4 := by
        rw [read 0 item rfl]
        simp [parseItem, TriggerItem.read, BitVec.msb_eq_getLsbD_last]
      have later (i : Nat) (e : TriggerItem) (entry : items[i]? = some e) :
          e = TriggerItem.read fun k => rest.getD (5 * i + k) 0 := by
        rw [read (i + 1) e entry]
        refine TriggerItem.read_congr fun k _ => ?_
        rw [show 5 * (i + 1) + k = 5 * i + k + 1 + 1 + 1 + 1 + 1 by omega]
        rfl
      rw [parseItems, ih (by simpa [Nat.mul_succ] using size) later, first]
      rfl

theorem parseAnnounce_of_page0 {l : List Byte} {count role : Nat} {known : BitVec 16} {decls : List Declaration}
    (read : (Payload.page0 count role known decls).ReadFrom l) :
    parseAnnounce l = some (.page0 count role known decls) := by
  obtain ⟨first, some_pages, few_pages, second, mask, declared⟩ := read
  obtain ⟨-, size, -⟩ := id declared
  match l, size with
  | pb :: r :: m1 :: m0 :: rest, _ =>
    simp only [List.getD_cons_zero, List.getD_cons_succ] at first second mask
    have counted : parseCounted rest = some decls := parseCounted_of_reads declared
    rw [parseAnnounce, if_neg (by omega), if_pos (by omega), counted, word16, mask, second, first,
      Nat.mod_eq_of_lt (by omega)]
    rfl
  | [], size | [_], size | [_, _], size | [_, _, _], size => simp at size; omega

theorem parseAnnounce_of_page {l : List Byte} {index count : Nat} {decls : List Declaration}
    (read : (Payload.page index count decls).ReadFrom l) : parseAnnounce l = some (.page index count decls) := by
  obtain ⟨first, later, inside, few_pages, declared⟩ := read
  obtain ⟨-, size, -⟩ := id declared
  match l, size with
  | pb :: rest, _ =>
    rw [List.getD_cons_zero] at first
    have page_index : pb.toNat / 16 = index := by omega
    have page_count : pb.toNat % 16 = count := by omega
    have counted : parseCounted rest = some decls := parseCounted_of_reads declared
    simp only [parseAnnounce, page_index, page_count]
    rw [if_neg (by omega), if_neg (by omega), counted]
    rfl
  | [], size => simp at size; omega

/-- A payload that reads as this one is taken as this one. -/
theorem parsePayload_of_reads {l : List Byte} {p : Payload} (read : p.ReadFrom l) : parsePayload p.kind l = some p := by
  cases p with
  | page0 => exact parseAnnounce_of_page0 read
  | page => exact parseAnnounce_of_page read
  | level pairs =>
    obtain ⟨size, ascending, entries⟩ := read
    simp only [Payload.kind, parsePayload]
    rw [parseLevel_of_reads 0 size ascending (fun _ _ => Nat.zero_le _) entries]
    rfl
  | trigger items =>
    obtain ⟨some_items, few_items, size, entries⟩ := read
    simp only [Payload.kind, parsePayload]
    rw [if_neg (by omega), parseItems_of_reads size entries]
    rfl
  | bye => rw [show l = [] from read]; rfl

/-- A body that reads as a burst is judged to be that burst. -/
theorem judgeBody_of_reads {b : Burst} {h0 h1 h2 h3 : Byte} {payload : List Byte} (read : b.ReadFrom h0 h1 h2 h3 payload)
    (n : Nat) : judgeBody n (h0 :: h1 :: h2 :: h3 :: payload) = .good b := by
  obtain ⟨first, source_le, seq, request, hold, size, contents⟩ := read
  obtain ⟨kind_ge, kind_le⟩ := b.payload.kind_bounds
  have kind : h0.toNat / 16 = b.payload.kind := by omega
  have source : h0.toNat % 16 = b.source := by omega
  rw [judgeBody]
  rw [kind, source, if_neg (by omega), if_neg (by omega), ← request, ← seq, ← hold, Mode.ofCode_code,
    parsePayload_of_reads contents]

/-! ### A run is judged (R145) -/

/-- A run of at least six bytes that was not cut short: its CRC is checked first, and then its body. -/
theorem Run.judge_whole {r : Run} {body : List Byte} {hi lo : Byte} (collected : r.bytes = some (body ++ [hi, lo]))
    (kept : r.aborted = false) (long : 4 ≤ body.length) :
    r.judge = if hi ++ lo = crc16 body then judgeBody (body.length + 2) body else .bad .crc none (body.length + 2) := by
  have size : (body ++ [hi, lo]).length = body.length + 2 := List.length_append
  simp only [Run.judge, collected, size, kept, Nat.add_sub_cancel, List.take_left, List.drop_left, ne_eq, pair_eq_bytes16_iff]
  rw [if_neg (by omega), if_neg (by decide), ite_not]

/-- A burst as its sender put it on the line is judged to be that burst, by a receiver that collects its bytes. -/
theorem Burst.judge_own {b : Burst} (fits : b.Fits) {r : Run} (collected : r.bytes = some b.bytes) (kept : r.aborted = false) :
    r.judge = .good b := by
  obtain ⟨hi, lo, crc⟩ : ∃ hi lo, bytes16 (crc16 (b.header ++ b.payload.bytes)).toNat = [hi, lo] := ⟨_, _, rfl⟩
  have agrees := (pair_eq_bytes16_iff hi lo _).1 crc.symm
  rw [Burst.bytes, crc] at collected
  rw [Run.judge_whole collected kept (by simp [Burst.header]), if_pos agrees]
  exact judgeBody_of_reads (Burst.readFrom_own fits) _

/-- Settles O13: the bits of a burst are those of its bytes, its bytes read back field by field as the burst, and what reads as a
burst is accepted as that burst. -/
theorem ownBurstsPassTheChecks : Obligations.OwnBurstsPassTheChecks := by
  refine ⟨checkValue_formed, fun b => ⟨⟨b.onLine_length, b.lineBits_eq, fun i _ => b.onLine_getElem? i⟩, fun fits => ?_⟩⟩
  obtain ⟨-, -, payload⟩ := id fits
  have room := Payload.bytes_length_le payload
  have collected := b.collect_onLine { received := true } room
  have bits := b.lineBits_eq
  exact ⟨_, collected, rfl, rfl, by omega, Burst.judge_own fits rfl rfl⟩

end Sys2Proof.Machine
end

section
namespace Sys2Proof.Machine

/-! ### The format checks fail (R154) -/

/-- A format check of this kind's payload fails (R149 to R152, R154). -/
def FormatBroken (kind : Nat) (payload : List Byte) : Prop :=
  (kind = 1 ∧ (payload = [] ∨ ∃ page body decls n, payload = page :: body ∧
    decls = (if page.toNat / 16 = 0 then body.drop 3 else body) ∧ n = (decls.getD 0 0).toNat ∧
    (page.toNat % 16 = 0 ∨ 4 < page.toNat % 16 ∨ page.toNat % 16 ≤ page.toNat / 16 ∨ decls = [] ∨ 4 < n ∨
      decls.length ≠ 1 + 2 * n ∨ ∃ i, i < n ∧ 15 < (decls.getD (1 + 2 * i) 0).toNat))) ∨
  (kind = 2 ∧ (payload.length % 3 ≠ 0 ∨
    (∃ i, 3 * i < payload.length ∧ 15 < (payload.getD (3 * i) 0).toNat) ∨
    ∃ i, 3 * (i + 1) < payload.length ∧ (payload.getD (3 * (i + 1)) 0).toNat ≤ (payload.getD (3 * i) 0).toNat)) ∨
  (kind = 3 ∧ (payload = [] ∨ payload.length % 5 ≠ 0 ∨ 20 < payload.length)) ∨
  (kind = 4 ∧ payload ≠ [])

theorem exists_lt_succ {n : Nat} {p : Nat → Prop} : (∃ i, i < n + 1 ∧ p i) ↔ p 0 ∨ ∃ i, i < n ∧ p (i + 1) := by
  rw [← Nat.or_exists_add_one]
  simp

/-- Declarations in pairs of bytes are refused for a channel above 15 alone. -/
theorem parseDeclarations_eq_none_iff {n : Nat} {l : List Byte} (size : l.length = 2 * n) :
    parseDeclarations l = none ↔ ∃ i, i < n ∧ 15 < (l.getD (2 * i) 0).toNat := by
  induction n generalizing l with
  | zero => simp [List.length_eq_zero_iff.1 size, parseDeclarations]
  | succ n ih =>
    match l, size with
    | c :: r :: rest, size =>
      have rest_size : rest.length = 2 * n := by simpa [Nat.mul_succ] using size
      rw [exists_lt_succ, parseDeclarations]
      simp only [Nat.mul_succ, List.getD_cons_succ]
      rw [← ih rest_size]
      by_cases channel : c.toNat ≤ 15
      · simp [channel]
      · simp only [if_neg channel]
        simp; omega

theorem parseCounted_eq_none_iff (l : List Byte) : parseCounted l = none ↔ l = [] ∨ 4 < (l.getD 0 0).toNat ∨
    l.length ≠ 1 + 2 * (l.getD 0 0).toNat ∨ ∃ i, i < (l.getD 0 0).toNat ∧ 15 < (l.getD (1 + 2 * i) 0).toNat := by
  cases l with
  | nil => simp [parseCounted]
  | cons n rest =>
    simp only [List.getD_cons_zero, List.length_cons, Nat.add_comm 1, List.getD_cons_succ, reduceCtorEq, false_or]
    by_cases counted : n.toNat ≤ 4 ∧ rest.length = 2 * n.toNat
    · rw [parseCounted, if_pos counted, parseDeclarations_eq_none_iff counted.2]
      simp [counted]
    · rw [parseCounted, if_neg counted]
      simp; omega

theorem parseAnnounce_eq_none_iff (page : Byte) (body : List Byte) :
    parseAnnounce (page :: body) = none ↔ page.toNat % 16 = 0 ∨ 4 < page.toNat % 16 ∨ page.toNat % 16 ≤ page.toNat / 16 ∨
      parseCounted (if page.toNat / 16 = 0 then body.drop 3 else body) = none := by
  by_cases counts : page.toNat % 16 = 0 ∨ 4 < page.toNat % 16 ∨ page.toNat % 16 ≤ page.toNat / 16
  · simp only [parseAnnounce, if_pos counts, true_iff]
    tauto
  · have numbered : (page.toNat % 16 = 0 ∨ 4 < page.toNat % 16 ∨ page.toNat % 16 ≤ page.toNat / 16 ∨
        parseCounted (if page.toNat / 16 = 0 then body.drop 3 else body) = none) ↔
        parseCounted (if page.toNat / 16 = 0 then body.drop 3 else body) = none := by tauto
    rw [numbered]
    simp only [parseAnnounce, if_neg counts]
    split
    · match body with
      | [] | [_] | [_, _] | [_, _, _] => simp [parseCounted]
      | _ :: _ :: _ :: _ :: _ => simp
    · simp

/-- A LEVEL is refused for a byte left over, for a channel above 15 or for channels that do not ascend, the first from `floor`. -/
theorem parseLevel_eq_none_iff (floor : Nat) : ∀ l : List Byte, parseLevel floor l = none ↔ l.length % 3 ≠ 0 ∨
    (0 < l.length ∧ (l.getD 0 0).toNat < floor) ∨ (∃ i, 3 * i < l.length ∧ 15 < (l.getD (3 * i) 0).toNat) ∨
      ∃ i, 3 * (i + 1) < l.length ∧ (l.getD (3 * (i + 1)) 0).toNat ≤ (l.getD (3 * i) 0).toNat
  | [] | [_] | [_, _] => by simp [parseLevel]
  | c :: hi :: lo :: rest => by
    have later := parseLevel_eq_none_iff (c.toNat + 1) rest
    have refused : parseLevel floor (c :: hi :: lo :: rest) = none ↔
        ¬(floor ≤ c.toNat ∧ c.toNat ≤ 15) ∨ parseLevel (c.toNat + 1) rest = none := by
      rw [parseLevel]
      split <;> simp_all
    have above : (∃ i, 3 * i < rest.length + 3 ∧ 15 < ((c :: hi :: lo :: rest).getD (3 * i) 0).toNat) ↔
        15 < c.toNat ∨ ∃ i, 3 * i < rest.length ∧ 15 < (rest.getD (3 * i) 0).toNat := by
      rw [← Nat.or_exists_add_one]
      simp [Nat.mul_succ]
    have descends : (∃ i, 3 * (i + 1) < rest.length + 3 ∧ ((c :: hi :: lo :: rest).getD (3 * (i + 1)) 0).toNat ≤
        ((c :: hi :: lo :: rest).getD (3 * i) 0).toNat) ↔ (0 < rest.length ∧ (rest.getD 0 0).toNat ≤ c.toNat) ∨
          ∃ i, 3 * (i + 1) < rest.length ∧ (rest.getD (3 * (i + 1)) 0).toNat ≤ (rest.getD (3 * i) 0).toNat := by
      rw [← Nat.or_exists_add_one]
      simp [Nat.mul_succ]
    simp only [List.length_cons, Nat.add_assoc, Nat.reduceAdd, Nat.add_mod_right, List.getD_cons_zero] at above descends ⊢
    rw [refused, later, above, descends, Nat.lt_succ_iff]
    have some_bytes : 0 < rest.length + 3 := by omega
    simp only [some_bytes, true_and, not_and_or, Nat.not_le]
    exact iff_of_eq (by ac_rfl)

theorem parseItems_eq_none_iff : ∀ l : List Byte, parseItems l = none ↔ l.length % 5 ≠ 0
  | [] | [_] | [_, _] | [_, _, _] | [_, _, _, _] => by simp [parseItems]
  | b0 :: b1 :: b2 :: b3 :: b4 :: rest => by
    rw [parseItems, Option.map_eq_none_iff, parseItems_eq_none_iff rest]
    simp only [List.length_cons]
    omega

/-- A payload of one of the four kinds is refused exactly where a format check of its kind fails. -/
theorem parsePayload_eq_none_iff {kind : Nat} (least : 1 ≤ kind) (greatest : kind ≤ 4) (payload : List Byte) :
    parsePayload kind payload = none ↔ FormatBroken kind payload := by
  match kind, least, greatest with
  | 1, _, _ =>
    cases payload with
    | nil => simp [parsePayload, parseAnnounce, FormatBroken]
    | cons page body =>
      simp only [parsePayload, parseAnnounce_eq_none_iff, parseCounted_eq_none_iff]
      simp [FormatBroken]
  | 2, _, _ =>
    simp only [parsePayload, Option.map_eq_none_iff, parseLevel_eq_none_iff]
    simp [FormatBroken]
  | 3, _, _ =>
    simp only [parsePayload]
    split
    next size => simp [FormatBroken, ← List.length_eq_zero_iff]; omega
    next size =>
      simp only [Option.map_eq_none_iff, parseItems_eq_none_iff]
      simp [FormatBroken, ← List.length_eq_zero_iff]
      omega
  | 4, _, _ => simp [parsePayload, FormatBroken]

/-! ### A body is judged (R145, R148, R154) -/

section
variable {h0 h1 h2 h3 : Byte} {payload : List Byte} (n : Nat)

theorem judgeBody_kind (unknown : h0.toNat / 16 = 0 ∨ 4 < h0.toNat / 16) :
    judgeBody n (h0 :: h1 :: h2 :: h3 :: payload) = .bad .kind (some (h0.toNat % 16)) n := by
  rw [judgeBody, if_pos unknown]

/-- A body of a known kind is judged by its length byte, its mode code and its payload. -/
theorem judgeBody_known (least : 1 ≤ h0.toNat / 16) (greatest : h0.toNat / 16 ≤ 4) :
    let broken := h3.toNat ≠ payload.length ∨ h2.toNat / 64 = 3 ∨ FormatBroken (h0.toNat / 16) payload
    (broken → judgeBody n (h0 :: h1 :: h2 :: h3 :: payload) = .bad .format (some (h0.toNat % 16)) n) ∧
      (¬broken → ∃ b, judgeBody n (h0 :: h1 :: h2 :: h3 :: payload) = .good b) := by
  intro broken
  have known : ¬(h0.toNat / 16 = 0 ∨ 4 < h0.toNat / 16) := by omega
  have refused := parsePayload_eq_none_iff least greatest payload
  have byte_range := h2.isLt
  rw [judgeBody]
  simp only [if_neg known]
  constructor
  · rintro (size | code | format)
    · rw [if_pos size]
    · simp [code, Mode.ofCode]
    · simp [refused.2 format]
  · intro whole
    obtain ⟨size, code, format⟩ : h3.toNat = payload.length ∧ h2.toNat / 64 ≠ 3 ∧ ¬FormatBroken (h0.toNat / 16) payload := by
      simpa [broken, not_or] using whole
    obtain ⟨p, parsed⟩ := Option.ne_none_iff_exists'.1 (mt refused.1 format)
    obtain ⟨request, named⟩ : ∃ m, Mode.ofCode (h2.toNat / 64) = some m := by
      match h2.toNat / 64, (by omega : h2.toNat / 64 < 3) with
      | 0, _ | 1, _ | 2, _ => exact ⟨_, rfl⟩
    rw [if_neg (not_not.2 size), named, parsed]
    exact ⟨_, rfl⟩

end

/-! ### What a receiver collects (R145) -/

/-- These bytes stand on these bits behind the first start byte, with fewer than eight bits left over (R137, R145). -/
def Carries (bits : List Bool) (bytes : List Byte) : Prop :=
  ∃ lead tail, bits = lead ++ byteBits startByte ++ bytes.flatMap byteBits ++ tail ∧ tail.length < 8 ∧
    ∀ i, i < lead.length → (bits.drop i).take 8 ≠ byteBits startByte

theorem Carries.collect {bits : List Bool} {bytes : List Byte} (carried : Carries bits bytes) (r : Run) :
    r.collect bits = { r with bytes := some (bytes.take 54), aborted := decide (54 < bytes.length) } := by
  obtain ⟨lead, tail, rfl, short, first⟩ := carried
  rw [List.append_assoc] at first ⊢
  rw [Run.collect_found (afterStart_first lead _ first), wholeBytes_flatMap bytes short]

theorem collect_without_start {bits : List Bool} (h : ∀ i, (bits.drop i).take 8 ≠ byteBits startByte) (r : Run) :
    r.collect bits = r := by
  rw [Run.collect, afterStart_none h]

section
variable {bits : List Bool} {r : Run}

theorem Carries.judge_short {bytes : List Byte} (carried : Carries bits bytes) (short : bytes.length < 6) :
    (r.collect bits).judge = .fragment := by
  rw [carried.collect, Run.judge]
  simp only [List.length_take]
  rw [if_pos (by omega)]

theorem Carries.judge_long {bytes : List Byte} (carried : Carries bits bytes) (long : 54 < bytes.length) :
    (r.collect bits).judge = .bad .length none 54 := by
  have size : (bytes.take 54).length = 54 := by rw [List.length_take]; omega
  rw [carried.collect, Run.judge]
  simp only [size]
  rw [if_neg (by decide), if_pos (by simpa using long)]

theorem Carries.judge_whole {body : List Byte} {hi lo : Byte} (carried : Carries bits (body ++ [hi, lo]))
    (least : 4 ≤ body.length) (greatest : body.length ≤ 52) : (r.collect bits).judge =
      if hi ++ lo = crc16 body then judgeBody (body.length + 2) body else .bad .crc none (body.length + 2) := by
  have size : (body ++ [hi, lo]).length = body.length + 2 := List.length_append
  rw [carried.collect, List.take_of_length_le (by omega), decide_eq_false (by omega)]
  exact Run.judge_whole rfl rfl least

end

/-! ### What a received run comes to (R146, R147) -/

/-- Nothing but a fragment has been counted (R145, R147). -/
def State.FragmentCounted (s u : State) : Prop := u.fifo = s.fifo ∧ u.events = s.events ∧
  u.counters = { s.counters with fragments := min 65535 (s.counters.fragments + 1) }

/-- One BAD_BURST has been raised and counted (R145, R147). -/
def State.BadBurstReported (s u : State) (reason : Nat) (station : Option Nat) (value : Nat) : Prop := u.fifo = s.fifo ∧
  u.counters = { s.counters with badBursts := min 65535 (s.counters.badBursts + 1) } ∧
  u.events = s.events.offer { kind := .badBurst, count := s.merge.periodCount, station, detail := some reason,
                              value := some (value : Int) }

/-- A burst of another node has joined the Receive FIFO, or is an overrun (R146, R147). -/
def State.BurstTaken (s u : State) (b : Burst) : Prop :=
  (s.fifo.length < 4 → u.fifo = s.fifo ++ [{ burst := b, endInstant := u.now, own := false }] ∧
    u.counters = s.counters ∧ u.events = s.events) ∧
  (4 ≤ s.fifo.length → u.fifo = s.fifo ∧
    u.counters = { s.counters with rxOverruns := min 65535 (s.counters.rxOverruns + 1) } ∧
    u.events = s.events.offer {
      kind := .rxOverrun, count := s.merge.periodCount, station := some b.source,
      detail := some b.payload.kind, value := some (b.seq : Int) })

theorem State.takeRun_fragment {s : State} {r : Run} (judged : r.judge = .fragment) : s.FragmentCounted (s.takeRun r) := by
  rw [State.takeRun, judged]
  exact ⟨rfl, rfl, rfl⟩

theorem State.takeRun_bad {s : State} {r : Run} {reason : BadReason} {station : Option Nat} {value : Nat}
    (judged : r.judge = .bad reason station value) : s.BadBurstReported (s.takeRun r) reason.code station value := by
  rw [State.takeRun, judged]
  exact ⟨rfl, rfl, rfl⟩

theorem State.takeRun_good {s : State} {r : Run} {b : Burst} (judged : r.judge = .good b) : s.BurstTaken (s.takeRun r) b := by
  rw [State.takeRun, judged]
  simpa [State.BurstTaken] using s.offerBurst_spec { burst := b, endInstant := s.now, own := false }

/-! ### The carrier of others (R138, R145) -/

/-- Carrier stops a quiet count that it finds below 40. -/
theorem Quiet.atCarrier_counting (t since : Nat) :
    (Quiet.counting since).atCarrier t = if t < since + 40 then .stopped else .counting since := by
  have early : t - since < Config.gapRestartBits ↔ t < since + 40 := by rw [Config.gapRestartBits]; omega
  simp only [Quiet.atCarrier, early]

/-- Carrier leaves every other quiet count as it is. -/
theorem Quiet.atCarrier_late {t : Nat} {q : Quiet} (late : ∀ since, q = .counting since → since + 40 ≤ t) :
    q.atCarrier t = q := by
  cases q with
  | counting since => rw [Quiet.atCarrier_counting, if_neg (Nat.not_lt.2 (late since rfl))]
  | stopped | ended => rfl

theorem exec_carrierStart {s : State} (clear : s.line.run = none) (t : Nat) :
    exec (.carrierStart t) s = .next { s with
      now := max s.now t
      line := { s.line with
        run := some { received := s.line.receiveOpen && decide (s.line.drive = .idle) }
        quiet := s.line.quiet.atCarrier (max s.now t) } } := by
  simp only [exec, execCarrierStart, State.advance_frame, clear, Option.isSome_none, Bool.false_eq_true, if_false]
  rfl

/-- The state in which a received run is judged: the line has fallen quiet (R138). -/
def State.runOver (s : State) (t : Nat) : State := { s with
  now := max s.now t
  line := { s.line with run := none, quiet := .counting (max s.now t) } }

theorem exec_runEnd_received {s : State} (path : s.line.receiveOpen = true) (off : s.line.drive = .idle)
    (run : s.line.run = some { received := true }) (t : Nat) (bits : List Bool) :
    exec (.runEnd t bits) s = .next ((s.runOver t).takeRun (Run.collect { received := true } bits)) := by
  simp [exec, execRunEnd, path, off, run, State.runOver, State.advance]

theorem exec_runEnd_unreceived {s : State} (run : s.line.run = some { received := false }) (t : Nat) (bits : List Bool) :
    exec (.runEnd t bits) s = .next { s with
      now := max s.now t
      line := { s.line with
        run := none
        quiet := if s.line.receiveOpen = true ∧ s.line.drive = .idle then .counting (max s.now t) else s.line.quiet } } := by
  by_cases path : s.line.receiveOpen = true
  · by_cases off : s.line.drive = .idle <;> simp [exec, execRunEnd, run, path, off, State.advance]
  · simp [exec, execRunEnd, run, path, State.advance]

/-- Settles O51: a received run is judged by what is collected of it, and each judgement has its own effect. -/
theorem runsAreReceived : Obligations.RunsAreReceived := by
  refine ⟨checkValue_formed, fun s t =>
    ⟨fun clear => ?_, fun bits path off run => ?_, fun bits run => exec_runEnd_unreceived run t bits⟩⟩
  · refine ⟨_, exec_carrierStart clear t, fun since counting early => ?_, Quiet.atCarrier_late⟩
    rw [counting, Quiet.atCarrier_counting, if_pos early]
  · intro start onLine holds
    have fragment := State.takeRun_fragment (s := s.runOver t) (r := Run.collect { received := true } bits)
    have rejected {reason : BadReason} {station : Option Nat} {value : Nat} :=
      State.takeRun_bad (s := s.runOver t) (r := Run.collect { received := true } bits)
        (reason := reason) (station := station) (value := value)
    have accepted {b : Burst} :=
      State.takeRun_good (s := s.runOver t) (r := Run.collect { received := true } bits) (b := b)
    refine ⟨_, exec_runEnd_received path off run t bits, by simp [State.runOver], by simp [State.runOver], ?_, ?_⟩
    · refine ⟨?_, ?_, ?_, ?_, ?_⟩
      · rintro (nowhere | ⟨l, carried, short⟩)
        · refine fragment ?_
          rw [collect_without_start nowhere]
          rfl
        · exact fragment (Carries.judge_short carried short)
      · intro l carried long
        exact rejected (Carries.judge_long carried long)
      · intro l hi lo carried least greatest differs
        exact rejected ((Carries.judge_whole carried least greatest).trans (if_neg differs))
      · intro h0 h1 h2 h3 payload hi lo carried few agrees
        have judged := (Carries.judge_whole (r := { received := true }) carried (by simp) (by simp; omega)).trans
          (if_pos agrees)
        refine ⟨fun unknown => ?_, fun least greatest => ?_, fun b read => ?_⟩
        · exact rejected (judged.trans (judgeBody_kind _ unknown))
        · obtain ⟨broken, whole⟩ := judgeBody_known (h1 := h1) (h2 := h2) (h3 := h3) (payload := payload)
            (payload.length + 6) least greatest
          refine ⟨fun h => rejected (judged.trans (broken h)), fun h => ?_⟩
          obtain ⟨b, good⟩ := whole h
          exact ⟨b, judgeBody_reads good, accepted (judged.trans good)⟩
        · exact accepted (judged.trans (judgeBody_of_reads read _))
      · rintro b fits rfl
        obtain ⟨-, -, payload⟩ := id fits
        have collected := b.collect_onLine { received := true } (Payload.bytes_length_le payload)
        exact accepted (collected ▸ Burst.judge_own fits rfl rfl)
    · apply State.eq_of_fields <;> simp [State.runOver]

end Sys2Proof.Machine
end

section
namespace Sys2Proof.Machine

/-! ### The bounds, the sizes and the order of the records, part by part (R24, R25, R146, R168) -/

/-- What the Merge Engine keeps has its size (R19, R52, R55). -/
def Merge.Sized (m : Merge) : Prop :=
  m.limited.length = 8 ∧ (m.frame.outputs.length = 8 ∧ m.frame.clips.length = 8 ∧ m.frame.warns.length = 8) ∧
  (m.lastChannels.values.length = 16 ∧ m.lastChannels.ages.length = 16) ∧
  ∀ p, m.pass = some p → p.demands.length = 8 ∧ p.pres.length = 8 ∧ p.outputs.length = 8

/-- After a reset what the Merge Engine keeps has its size. -/
theorem Merge.sized_reset (periodDue : Nat) (mode : Mode) : Merge.Sized { periodDue, frame := { mode } } := by
  simp [Merge.Sized]

/-- The law of the tables' sizes, table by table. -/
theorem State.sizeLaw_iff (s : State) : s.SizeLaw ↔ s.peers.length = 15 ∧ s.players.length = 8 ∧ s.cfg.channels.length = 16 ∧
    s.cfg.axes.length = 8 ∧ s.store.profiles.length = 16 ∧ s.monitor.axes.length = 8 ∧ s.merge.Sized ∧
    s.sender.posted.length = 16 ∧ s.sender.lastSent.length = 16 := by
  constructor
  · rintro ⟨⟨peers, players, channels, axes⟩, ⟨profiles, monitors, limited⟩, frame, last, ⟨posted, sent⟩, pass⟩
    exact ⟨peers, players, channels, axes, profiles, monitors, ⟨limited, frame, last, pass⟩, posted, sent⟩
  · rintro ⟨peers, players, channels, axes, profiles, monitors, ⟨limited, frame, last, pass⟩, posted, sent⟩
    exact ⟨⟨peers, players, channels, axes⟩, ⟨profiles, monitors, limited⟩, frame, last, ⟨posted, sent⟩, pass⟩

/-- The store keeps to its room (R24, R25). -/
def Store.InRoom (st : Store) : Prop :=
  st.nextFree ≤ st.samples.length ∧ st.samples.length ≤ 1024 ∧
    ∀ w, st.writing = some w → w.number ≤ 15 ∧ st.nextFree + w.samples.length ≤ 1024

/-- These records stand in the order of their counts, none later than this one (R168). -/
def InOrder (queue : List Record) (count : Count) : Prop :=
  (queue.Pairwise fun a b => a.count.toNat ≤ b.count.toNat) ∧ ∀ r ∈ queue, r.count.toNat ≤ count.toNat

theorem InOrder.nil (count : Count) : InOrder [] count := by simp [InOrder]

theorem InOrder.sublist {queue rest : List Record} {count : Count} (order : InOrder queue count) (sub : rest.Sublist queue) :
    InOrder rest count :=
  ⟨order.1.sublist sub, fun r held => order.2 r (sub.subset held)⟩

/-- From `s` to `u` the bounds, the sizes and the store's room have been kept, and where the period count is not to wrap the order
of the records as well. -/
def BoundsKept (noWrap : Prop) (s u : State) : Prop :=
  (s.QueueLaw → u.QueueLaw) ∧ (s.SizeLaw → u.SizeLaw) ∧ (s.StoreLaw → u.StoreLaw) ∧
    (noWrap → s.EventOrderLaw → u.EventOrderLaw)

section
variable {noWrap : Prop} {s t u v : State}

theorem BoundsKept.refl (s : State) : BoundsKept noWrap s s := ⟨id, id, id, fun _ => id⟩

theorem BoundsKept.trans (h : BoundsKept noWrap s t) (h' : BoundsKept noWrap t u) : BoundsKept noWrap s u := by
  obtain ⟨queues, sizes, store, order⟩ := h
  obtain ⟨queues', sizes', store', order'⟩ := h'
  exact ⟨queues' ∘ queues, sizes' ∘ sizes, store' ∘ store, fun fits => order' fits ∘ order fits⟩

/-- Where the condition bears on what is kept. -/
theorem BoundsKept.ite_of {c : Prop} [Decidable c] (h : c → BoundsKept noWrap s t) (h' : ¬c → BoundsKept noWrap s u) :
    BoundsKept noWrap s (if c then t else u) := by
  split
  next holds => exact h holds
  next fails => exact h' fails

theorem BoundsKept.ite {c : Prop} [Decidable c] (h : BoundsKept noWrap s t) (h' : BoundsKept noWrap s u) :
    BoundsKept noWrap s (if c then t else u) := .ite_of (fun _ => h) (fun _ => h')

theorem BoundsKept.foldl {β : Type} {f : State → β → State} (h : ∀ s b, BoundsKept noWrap s (f s b)) (l : List β) (s : State) :
    BoundsKept noWrap s (l.foldl f s) := by
  induction l generalizing s with
  | nil => exact .refl s
  | cons b l ih => exact (h s b).trans (ih (f s b))

/-- An operation that raises no record, within the period: it may take bursts and records away, and each table keeps its size. -/
theorem BoundsKept.of_tables (kept : u.fifo.length ≤ s.fifo.length ∧ u.events.queue.Sublist s.events.queue ∧
    u.merge.periodCount = s.merge.periodCount ∧ (s.peers.length = 15 → u.peers.length = 15) ∧
    (s.players.length = 8 → u.players.length = 8) ∧ (s.cfg.channels.length = 16 → u.cfg.channels.length = 16) ∧
    (s.cfg.axes.length = 8 → u.cfg.axes.length = 8) ∧ (s.store.profiles.length = 16 → u.store.profiles.length = 16) ∧
    (s.monitor.axes.length = 8 → u.monitor.axes.length = 8) ∧ (s.merge.Sized → u.merge.Sized) ∧
    (s.sender.posted.length = 16 → u.sender.posted.length = 16) ∧
    (s.sender.lastSent.length = 16 → u.sender.lastSent.length = 16) ∧ (s.store.InRoom → u.store.InRoom)) :
    BoundsKept noWrap s u := by
  obtain ⟨fifo, events, count, peers, players, channels, axes, profiles, monitors, merge, posted, sent, store⟩ := kept
  refine ⟨fun law => ⟨Nat.le_trans fifo law.1, Nat.le_trans events.length_le law.2⟩, fun law => ?_, store,
    fun _ law => ?_⟩
  · rw [State.sizeLaw_iff] at law ⊢
    exact law.imp peers (.imp players (.imp channels (.imp axes (.imp profiles (.imp monitors (.imp merge
      (.imp posted sent)))))))
  · have order : InOrder u.events.queue s.merge.periodCount := InOrder.sublist law events
    rwa [← count] at order

/-- No law rests on the Source Table's entries. -/
theorem BoundsKept.sources (h : BoundsKept noWrap s t) (sources : List SourceEntry) : BoundsKept noWrap s { t with sources } :=
  h.trans (.of_tables (by simp))

/-- Every player freed. -/
theorem BoundsKept.freed (h : BoundsKept noWrap s t) : BoundsKept noWrap s { t with players := freePlayers } :=
  h.trans (.of_tables (by simp [freePlayers]))

/-- The monitors of the 8 axes written anew. -/
theorem BoundsKept.monitors (h : BoundsKept noWrap s t) {m : Monitor} (size : m.axes.length = 8) :
    BoundsKept noWrap s { t with monitor := m } :=
  h.trans (.of_tables (by simp [size]))

end

/-! ### Records are raised (R166, R168) -/

theorem EventUnit.offer_inOrder {e : EventUnit} {r : Record} (order : InOrder e.queue r.count) :
    InOrder (e.offer r).queue r.count := by
  simp only [EventUnit.offer]
  split
  · refine ⟨List.pairwise_append.2 ⟨order.1, List.pairwise_singleton _ _, fun a held b last => ?_⟩, fun a held => ?_⟩
    · rw [List.mem_singleton.1 last]
      exact order.2 a held
    · rcases List.mem_append.1 held with before | last
      · exact order.2 a before
      · rw [List.mem_singleton.1 last]
  · exact order

section
variable {noWrap : Prop}

/-- A record stamped with the count held has been offered (R166). -/
theorem BoundsKept.offered {s : State} {r : Record} (stamped : r.count = s.merge.periodCount) :
    BoundsKept noWrap s { s with events := s.events.offer r } := by
  refine ⟨fun law => ⟨law.1, EventUnit.offer_length _ law.2⟩, id, id, fun _ law => ?_⟩
  have order : InOrder s.events.queue r.count := by rw [stamped]; exact law
  have raised := EventUnit.offer_inOrder order
  rw [stamped] at raised
  exact raised

theorem State.report_boundsKept (s : State) (kind : EventKind) (station second channel detail : Option Nat)
    (value : Option Int) : BoundsKept noWrap s (s.report kind station second channel detail value) := .offered rfl

theorem State.reportBad_boundsKept (s : State) (reason : BadReason) (station : Option Nat) (value : Option Int) :
    BoundsKept noWrap s (s.reportBad reason station value) :=
  .trans (.of_tables (by simp)) (State.report_boundsKept ..)

theorem State.reportDropped_boundsKept (s : State) (reason : DropReason) (station : Nat) (channel : Option Nat) (event : Nat) :
    BoundsKept noWrap s (s.reportDropped reason station channel event) := s.report_boundsKept ..

theorem State.changeStage_boundsKept (s : State) (stage : Stage) : BoundsKept noWrap s (s.changeStage stage) :=
  .trans (.of_tables (by simp)) (State.report_boundsKept ..)

theorem State.enterNode_boundsKept (s : State) (state : NodeState) : BoundsKept noWrap s (s.enterNode state) :=
  .trans (.of_tables (by simp)) (State.report_boundsKept ..)

theorem State.offerBurst_boundsKept (s : State) (e : FifoEntry) : BoundsKept noWrap s (s.offerBurst e) := by
  simp only [State.offerBurst]
  split
  next room =>
    have room : s.fifo.length < 4 := room
    exact ⟨fun law => ⟨by simpa using room, law.2⟩, id, id, fun _ => id⟩
  next => exact .trans (.of_tables (by simp)) (State.report_boundsKept ..)

theorem State.takeRun_boundsKept (s : State) (r : Run) : BoundsKept noWrap s (s.takeRun r) := by
  simp only [State.takeRun]
  split
  · exact .of_tables (by simp)
  · exact s.reportBad_boundsKept ..
  · exact s.offerBurst_boundsKept _

/-! ### Votes and FAULT (R61, R69, R71, R114) -/

/-- No request for a LEVEL touches what has been posted or sent (R118). -/
@[simp] theorem State.queueLevel_values (s : State) (hold : Bool) : (s.queueLevel hold).sender.posted = s.sender.posted ∧
    (s.queueLevel hold).sender.lastSent = s.sender.lastSent := by
  rw [State.queueLevel_sender]
  exact ⟨rfl, rfl⟩

@[simp] theorem State.formRequest_values (s : State) : s.formRequest.sender.posted = s.sender.posted ∧
    s.formRequest.sender.lastSent = s.sender.lastSent := by
  simp only [State.formRequest]
  (repeat' split) <;> simp

@[simp] theorem State.settleWaiting_values (s : State) : s.settleWaiting.sender.posted = s.sender.posted ∧
    s.settleWaiting.sender.lastSent = s.sender.lastSent := by
  simp only [State.settleWaiting]
  (repeat' split) <;> simp

@[simp] theorem State.startSender_values (s : State) : s.startSender.sender.posted = s.sender.posted ∧
    s.startSender.sender.lastSent = s.sender.lastSent := by
  simp [State.startSender]

@[simp] theorem State.checkLevel_values (s : State) : s.checkLevel.sender.posted = s.sender.posted ∧
    s.checkLevel.sender.lastSent = s.sender.lastSent := by
  simp only [State.checkLevel]
  (repeat' split) <;> simp

@[simp] theorem State.reportCompleted_values (s : State) (e : TxEntry) (groupEnds : Bool) :
    (s.reportCompleted e groupEnds).sender.posted = s.sender.posted ∧
    (s.reportCompleted e groupEnds).sender.lastSent = s.sender.lastSent := by
  rw [State.reportCompleted_sender]
  exact ⟨rfl, rfl⟩

@[simp] theorem LevelSender.silenced_values (l : LevelSender) :
    l.silenced.posted = l.posted ∧ l.silenced.lastSent = l.lastSent := ⟨rfl, rfl⟩

theorem State.formRequest_boundsKept (s : State) : BoundsKept noWrap s s.formRequest := .of_tables (by simp)

theorem State.evaluateMode_boundsKept (s : State) : BoundsKept noWrap s s.evaluateMode :=
  .ite (.refl s) (.trans (.of_tables (by simp)) (State.report_boundsKept ..))

theorem State.turnStage_boundsKept (s : State) : BoundsKept noWrap s s.turnStage := by
  simp only [State.turnStage]
  split
  · exact .ite (.refl s) (s.changeStage_boundsKept _)
  · exact .ite (.refl s) (s.changeStage_boundsKept _)
  · exact .ite (s.changeStage_boundsKept _) (.refl s)
  · exact .ite (s.changeStage_boundsKept _) (.refl s)

theorem State.revote_boundsKept (s : State) : BoundsKept noWrap s s.revote :=
  .trans (s.formRequest_boundsKept.trans (State.evaluateMode_boundsKept _)) (State.turnStage_boundsKept _)

theorem State.setTrip_boundsKept (s : State) : BoundsKept noWrap s s.setTrip :=
  .trans (.of_tables (by simp)) (State.revote_boundsKept _)

theorem State.enterFault_boundsKept (s : State) : BoundsKept noWrap s s.enterFault := by
  by_cases joined : s.node.state.joined = true
  · rw [State.enterFault_eq joined]
    refine .trans (.trans (s.enterNode_boundsKept .fault) ?_) (State.revote_boundsKept _)
    simp only [State.faultMade]
    exact .of_tables (by simp)
  · rw [State.enterFault, if_neg joined]
    exact .refl s

theorem State.parkNow_boundsKept (s : State) : BoundsKept noWrap s s.parkNow :=
  .ite (.of_tables (by simp)) (.trans (.of_tables (by simp)) (State.changeStage_boundsKept _ _))

/-- LEAVE completion makes the tables anew, each of its size (R113). -/
theorem State.completeLeave_boundsKept (s : State) : BoundsKept noWrap s s.completeLeave := by
  simp only [State.completeLeave]
  refine .trans (.trans (.trans ?_ (State.formRequest_boundsKept _)) (State.evaluateMode_boundsKept _))
    (State.parkNow_boundsKept _)
  refine .trans (s.enterNode_boundsKept .config) ?_
  exact .of_tables (by simp +contextual [freePlayers, Merge.Sized])

/-! ### Entries leave the queue (R122 to R125) -/

theorem State.dropMade_boundsKept (s : State) (tx : Tx) {r : Record} (stamped : r.count = s.merge.periodCount) :
    BoundsKept noWrap s (s.dropMade tx r) := by
  refine .trans (.offered stamped) ?_
  simp only [State.dropMade]
  exact .of_tables (by simp)

theorem State.dropTold_boundsKept (s : State) (e : TxEntry) : BoundsKept noWrap s (s.dropTold e) := by
  simp only [State.dropTold]
  split <;> exact .of_tables (by simp)

theorem State.dropCurrent_boundsKept (s : State) (reason : TxReason) : BoundsKept noWrap s (s.dropCurrent reason) := by
  cases entries : s.tx.entries with
  | nil =>
    simp only [State.dropCurrent, entries]
    exact .refl s
  | cons e rest =>
    have dropped : BoundsKept noWrap s (s.dropMade (e.leaves s.tx) (s.txDroppedRecord e reason)) :=
      s.dropMade_boundsKept _ rfl
    rw [State.dropCurrent_eq entries]
    exact .trans (dropped.trans (.of_tables (by simp))) (State.dropTold_boundsKept _ e)

theorem State.dropStale_boundsKept (s : State) (i : Nat) (item : TriggerItem) : BoundsKept noWrap s (s.dropStale i item) := by
  have dropped : BoundsKept noWrap s (s.dropMade (s.tx.remove i) (s.staleRecord item)) := s.dropMade_boundsKept _ rfl
  rw [State.dropStale_eq]
  exact .ite (dropped.trans (.of_tables (by simp))) (dropped.trans (.of_tables (by simp)))

theorem State.attemptFailed_boundsKept (s : State) : BoundsKept noWrap s s.attemptFailed := by
  have kept (e : TxEntry) : BoundsKept noWrap s (s.keepForRetry e) := .of_tables (by simp)
  cases entries : s.tx.entries with
  | nil =>
    simp only [State.attemptFailed, entries]
    exact .refl s
  | cons e rest =>
    have retried : BoundsKept noWrap s (
      if e.attempts + 1 < Config.maxAttempts then s.keepForRetry { e with attempts := e.attempts + 1 }
      else if s.cfg.timing.persist then s.keepForRetry { e with attempts := 0 } else s.dropCurrent .excessive) :=
      .ite (kept _) (.ite (kept _) (s.dropCurrent_boundsKept _))
    simp only [State.attemptFailed, entries]
    split
    exacts [.ite (s.dropStale_boundsKept 0 _) retried, retried]

/-! ### Bursts applied (R8, R9, R29 to R33, R95 to R110) -/

@[simp] theorem State.mapPeer_peers_length (s : State) (x : Nat) (f : PeerRecord → PeerRecord) :
    (s.mapPeer x f).peers.length = s.peers.length := by
  cases x <;> simp [State.mapPeer]

theorem State.mapPeer_boundsKept (s : State) (x : Nat) (f : PeerRecord → PeerRecord) : BoundsKept noWrap s (s.mapPeer x f) :=
  (.of_tables (by simp))

theorem State.requestAnnounce_boundsKept (s : State) : BoundsKept noWrap s s.requestAnnounce := .of_tables (by simp)

theorem State.orphanPlayers_boundsKept (s : State) (x : Nat) : BoundsKept noWrap s (s.orphanPlayers x) := .of_tables (by simp)

theorem State.discardDeclared_boundsKept (s : State) (x : Nat) : BoundsKept noWrap s (s.discardDeclared x) :=
  .trans (.of_tables (by simp)) (State.orphanPlayers_boundsKept _ x)

theorem State.settleReturn_boundsKept (s : State) (b : Burst) : BoundsKept noWrap s (s.settleReturn b) :=
  .ite (.trans (s.mapPeer_boundsKept b.source _) (State.report_boundsKept ..)) (.refl s)

theorem State.headerSteps_boundsKept (s : State) (b : Burst) : BoundsKept noWrap s (s.headerSteps b) :=
  .trans (.trans (s.mapPeer_boundsKept b.source _) (State.settleReturn_boundsKept _ b)) (State.mapPeer_boundsKept _ b.source _)

theorem State.reportConflicts_boundsKept (s : State) (x : Nat) (decls : List Declaration) :
    BoundsKept noWrap s (s.reportConflicts x decls) :=
  .foldl (fun s _ => s.report_boundsKept ..) _ s

theorem State.groupTaken_boundsKept (s : State) (x : Nat) (a : Assembly) : BoundsKept noWrap s (s.groupTaken x a) := by
  refine .trans (.trans ?_ (State.report_boundsKept ..)) (State.reportConflicts_boundsKept _ x _)
  exact .of_tables (by simp)

theorem State.completeGroup_boundsKept (s : State) (x : Nat) (a : Assembly) : BoundsKept noWrap s (s.completeGroup x a) := by
  rw [State.completeGroup_eq]
  exact .ite (s.groupTaken_boundsKept x a) (.trans (s.groupTaken_boundsKept x a) (State.requestAnnounce_boundsKept _))

theorem State.takeAssembly_boundsKept (s : State) (x : Nat) (a : Assembly) : BoundsKept noWrap s (s.takeAssembly x a) :=
  .ite (s.completeGroup_boundsKept x a) (s.mapPeer_boundsKept x _)

theorem State.dropPage_boundsKept (s : State) (x : Nat) : BoundsKept noWrap s (s.dropPage x) :=
  .trans (s.mapPeer_boundsKept x _) (State.reportBad_boundsKept ..)

theorem State.applyPage_boundsKept (s : State) (x index count : Nat) (decls : List Declaration) :
    BoundsKept noWrap s (s.applyPage x index count decls) := by
  simp only [State.applyPage]
  split
  · exact .ite (s.takeAssembly_boundsKept x _) (s.dropPage_boundsKept x)
  · exact s.dropPage_boundsKept x

theorem State.applyBye_boundsKept (s : State) (x : Nat) : BoundsKept noWrap s (s.applyBye x) :=
  .ite (.refl s) (.trans (.trans (s.mapPeer_boundsKept x _) (State.discardDeclared_boundsKept _ x))
    (State.report_boundsKept ..))

theorem State.applyPair_boundsKept (x : Nat) (s : State) (pair : Nat × Int) : BoundsKept noWrap s (s.applyPair x pair) :=
  .ite (.of_tables (by simp)) (s.mapPeer_boundsKept x _)

theorem State.applyUnannounced_boundsKept (s : State) (x : Nat) : BoundsKept noWrap s (s.applyUnannounced x) :=
  .trans (s.mapPeer_boundsKept x _) (State.requestAnnounce_boundsKept _)

theorem sentPairs_length (pairs : List (Nat × Int)) (lastSent : List (Option Int)) :
    (sentPairs pairs lastSent).length = lastSent.length := by
  induction pairs generalizing lastSent with
  | nil => rfl
  | cons p pairs ih => exact (ih _).trans List.length_set

theorem State.applyOwnLevel_boundsKept (s : State) (request : Mode) (pairs : List (Nat × Int)) :
    BoundsKept noWrap s (s.applyOwnLevel request pairs) :=
  .of_tables (by simp [State.applyOwnLevel, sentPairs_length])

theorem State.setPlayer_boundsKept (s : State) (n : Nat) (p : Option Player) : BoundsKept noWrap s (s.setPlayer n p) :=
  .of_tables (by simp)

theorem applyStart_boundsKept (source endInstant channel event profile amplitude priority lead : Nat) (s : State) :
    BoundsKept noWrap s (applyStart source endInstant channel event profile amplitude priority lead s) := by
  have dropped (reason : DropReason) : BoundsKept noWrap s (s.reportDropped reason source (some channel) event) :=
    s.reportDropped_boundsKept ..
  refine .ite (dropped _) (.ite (dropped _) (.ite (dropped _) ?_))
  split
  · exact s.setPlayer_boundsKept _ _
  · split
    · exact .trans (s.reportDropped_boundsKept ..) (State.setPlayer_boundsKept ..)
    · exact dropped _

theorem applyCancel_boundsKept (source event : Nat) (s : State) : BoundsKept noWrap s (applyCancel source event s) :=
  .of_tables (by simp [applyCancel])

theorem applyItems_boundsKept (source endInstant : Nat) (items : List TriggerItem) (s : State) :
    BoundsKept noWrap s (applyItems source endInstant items s) := by
  refine .foldl (fun s item => ?_) items s
  cases item with
  | start => exact applyStart_boundsKept ..
  | cancel => exact applyCancel_boundsKept ..

theorem dropItems_boundsKept (source : Nat) (items : List TriggerItem) (s : State) :
    BoundsKept noWrap s (dropItems source items s) := by
  refine .foldl (fun s item => ?_) items s
  cases item with
  | start => exact s.reportDropped_boundsKept ..
  | cancel => exact .refl s

theorem State.applyOwn_boundsKept (s : State) (e : FifoEntry) : BoundsKept noWrap s (s.applyOwn e) := by
  simp only [State.applyOwn]
  split
  · exact s.applyOwnLevel_boundsKept _ _
  · exact applyItems_boundsKept ..
  all_goals exact .refl s

theorem State.applyContents_boundsKept (s : State) (e : FifoEntry) : BoundsKept noWrap s (s.applyContents e) := by
  simp only [State.applyContents]
  split
  · exact s.takeAssembly_boundsKept _ _
  · exact s.applyPage_boundsKept _ _ _ _
  · exact .ite (s.applyUnannounced_boundsKept _) (.foldl (State.applyPair_boundsKept _) _ s)
  · exact .ite (.trans (dropItems_boundsKept ..) (State.applyUnannounced_boundsKept _ _)) (applyItems_boundsKept ..)
  · exact s.applyBye_boundsKept _

theorem State.applyDuplicate_boundsKept (s : State) (b : Burst) : BoundsKept noWrap s (s.applyDuplicate b) :=
  .ite (.refl s) (.trans (s.report_boundsKept ..) (State.enterFault_boundsKept _))

theorem State.applyEntry_boundsKept (s : State) (e : FifoEntry) : BoundsKept noWrap s (s.applyEntry e) := by
  refine .trans ?_ (State.revote_boundsKept _)
  exact .ite (s.reportBad_boundsKept ..) (.ite (s.applyOwn_boundsKept e) (.ite (s.applyDuplicate_boundsKept e.burst)
    (.trans (s.headerSteps_boundsKept e.burst) (State.applyContents_boundsKept _ e))))

theorem State.applyOldest_boundsKept (s : State) : BoundsKept noWrap s s.applyOldest := by
  simp only [State.applyOldest]
  split
  · exact .refl s
  next queue => exact .trans (.of_tables (by simp [queue])) (State.applyEntry_boundsKept _ _)

theorem State.losePeer_boundsKept (s : State) (x : Nat) : BoundsKept noWrap s (s.losePeer x) := by
  simp only [State.losePeer]
  split
  · exact .ite (.refl s) (.trans (.trans (.sources (.trans (s.mapPeer_boundsKept x _) (State.report_boundsKept ..)) _)
      (State.orphanPlayers_boundsKept _ x)) (State.revote_boundsKept _))
  · exact .refl s

theorem State.forgetPeer_boundsKept (s : State) (x : Nat) : BoundsKept noWrap s (s.forgetPeer x) := by
  simp only [State.forgetPeer]
  split
  · exact .ite (.refl s) (.trans (.trans (.trans (s.mapPeer_boundsKept x _) (State.discardDeclared_boundsKept _ x))
      (State.report_boundsKept ..)) (State.revote_boundsKept _))
  · exact .refl s

theorem State.createOwnEntries_boundsKept (s : State) : BoundsKept noWrap s s.createOwnEntries := .of_tables (by simp)

theorem State.makeHeld_boundsKept (s : State) (h : HeldChange) : BoundsKept noWrap s (s.makeHeld h) := by
  cases h with
  | silence x => exact s.losePeer_boundsKept x
  | forget x => exact s.forgetPeer_boundsKept x
  | applyBurst => exact s.applyOldest_boundsKept
  | leaveCompletion => exact .ite s.completeLeave_boundsKept (.refl s)
  | ownEntries => exact s.createOwnEntries_boundsKept

/-! ### A pass (R47 to R56) -/

theorem State.stepFactor_boundsKept (s : State) : BoundsKept noWrap s s.stepFactor := by
  simp only [State.stepFactor]
  split
  · exact .ite (.of_tables (by simp)) (.freed (.trans (.of_tables (by simp)) (State.changeStage_boundsKept _ .parked)))
  · exact .ite (.of_tables (by simp)) (.trans (.of_tables (by simp)) (State.changeStage_boundsKept _ .live))
  all_goals exact .refl s

theorem State.reportAxes_boundsKept (s : State) (kind : EventKind) (values : List Int) (which : List Nat) :
    BoundsKept noWrap s (s.reportAxes kind values which) :=
  .foldl (fun s _ => s.report_boundsKept ..) which s

theorem State.monitorPass_boundsKept (s : State) (p : Pass) : BoundsKept noWrap s (s.monitorPass p) := by
  simp only [State.monitorPass]
  refine .ite ?_ (.trans (.trans ?_ (State.reportAxes_boundsKept ..)) (State.setTrip_boundsKept _)) <;>
    exact .monitors (.trans (s.reportAxes_boundsKept ..) (State.reportAxes_boundsKept ..)) rfl

theorem State.handOver_boundsKept (s : State) (p : Pass) : BoundsKept noWrap s (s.handOver p) := by
  simp only [State.handOver]
  split
  · exact s.stepFactor_boundsKept.trans (State.monitorPass_boundsKept _ p)
  · exact .trans (s.monitorPass_boundsKept p) (State.stepFactor_boundsKept _)

/-- A frame has the sizes of the pass it publishes and of the monitors (R55). -/
theorem State.publish_boundsKept {s : State} {p : Pass} (pass : s.merge.pass = some p) :
    BoundsKept noWrap s (State.publish { s with merge := { s.merge with pass := none, held := [] } } p) := by
  refine ⟨id, fun law => ?_, id, fun _ => id⟩
  rw [State.sizeLaw_iff] at law ⊢
  obtain ⟨peers, players, channels, axes, profiles, monitors, ⟨limited, -, last, sizes⟩, sent⟩ := law
  obtain ⟨-, -, outputs⟩ := sizes p pass
  have frame : (s.assembleFrame p).clips.length = 8 ∧ (s.assembleFrame p).warns.length = 8 := by
    simp [State.assembleFrame, monitors]
  exact ⟨peers, players, channels, axes, profiles, monitors, ⟨limited, ⟨outputs, frame⟩, last, by simp⟩, sent⟩

theorem State.finishPass_boundsKept (s : State) : BoundsKept noWrap s s.finishPass := by
  simp only [State.finishPass]
  split
  · exact .refl s
  next p pass =>
    exact .trans (.trans (State.publish_boundsKept pass) (State.handOver_boundsKept _ p))
      (.foldl State.makeHeld_boundsKept _ _)

end

end Sys2Proof.Machine
end

section
namespace Sys2Proof.Machine

/-! ### The Profile Store's room (R24 to R26) -/

theorem Store.InRoom.empty : Store.InRoom {} := by simp [Store.InRoom]

/-- A write begins for a profile of one of the 16 numbers, for which there is room. -/
theorem Store.InRoom.begun {st : Store} (room : st.InRoom) {w : ProfileWrite} (number : w.number ≤ 15)
    (fits : st.nextFree + w.samples.length ≤ 1024) : Store.InRoom { st with writing := some w } := by
  obtain ⟨used, size, -⟩ := room
  refine ⟨used, size, ?_⟩
  rintro _ ⟨⟩
  exact ⟨number, fits⟩

/-- The samples written take the place of unused positions and join behind the last. -/
theorem Store.InRoom.written {st : Store} (room : st.InRoom) {w : ProfileWrite} (writing : st.writing = some w) :
    (st.written w).InRoom := by
  obtain ⟨used, size, pending⟩ := room
  obtain ⟨-, fits⟩ := pending w writing
  refine ⟨?_, ?_, by simp [Store.written]⟩ <;>
    simp only [Store.written, List.length_append, List.length_take, List.length_drop] <;> omega

theorem Store.InRoom.cleared {st : Store} (room : st.InRoom) :
    Store.InRoom { st with profiles := List.replicate 16 none, nextFree := 0 } := by
  obtain ⟨-, size, pending⟩ := room
  refine ⟨Nat.zero_le _, size, fun w writing => ?_⟩
  obtain ⟨number, fits⟩ := pending w writing
  exact ⟨number, by simp only; omega⟩

theorem Store.InRoom.abandoned {st : Store} (room : st.InRoom) : Store.InRoom { st with writing := none } := by
  obtain ⟨used, size, -⟩ := room
  exact ⟨used, size, by simp⟩

section
variable {noWrap : Prop}

/-! ### A pass begins (R47 to R54) -/

@[simp] theorem State.makeHeld_count (s : State) (h : HeldChange) : (s.makeHeld h).merge.periodCount = s.merge.periodCount := by
  simp only [State.makeHeld]
  (repeat' split) <;> simp [State.completeLeave]

theorem State.finishPass_count (s : State) : s.finishPass.merge.periodCount = s.merge.periodCount := by
  have fold (l : List HeldChange) (s : State) : (l.foldl State.makeHeld s).merge.periodCount = s.merge.periodCount := by
    induction l generalizing s with
    | nil => rfl
    | cons h l ih => rw [List.foldl_cons, ih, State.makeHeld_count]
  simp only [State.finishPass]
  split
  · rfl
  · simp only [fold, State.handOver_frame]
    rfl

/-- The period count does not wrap at its next increment (R47). -/
def State.CountFits (s : State) : Prop := s.merge.periodCount.toNat + 1 < 2 ^ 32

/-- The count moves on by one, so it stays behind no record where it does not wrap. -/
theorem State.countExpiry_boundsKept (s : State) :
    BoundsKept s.CountFits s s.countExpiry := by
  refine ⟨id, id, id, fun fits law => ⟨law.1, fun r held => Nat.le_trans (law.2 r held) ?_⟩⟩
  have next : s.countExpiry.merge.periodCount.toNat = s.merge.periodCount.toNat + 1 := by
    show (s.merge.periodCount + 1).toNat = _
    rw [BitVec.toNat_add]
    exact Nat.mod_eq_of_lt fits
  omega

theorem State.mergeChannels_boundsKept (s : State) (expiry : Nat) : BoundsKept noWrap s (s.mergeChannels expiry) :=
  .of_tables (by simp +contextual [State.mergeChannels, stepPlayers, startPlayers, Merge.Sized, channelNumbers])

theorem State.computeAxes_boundsKept (s : State) (order : HandOverOrder) : BoundsKept noWrap s (s.computeAxes order) :=
  .of_tables (by simp +contextual [State.computeAxes, Merge.Sized, axisNumbers])

theorem State.beginPass_boundsKept (s : State) (order : HandOverOrder) :
    BoundsKept s.CountFits s (s.beginPass order) :=
  .trans (s.countExpiry_boundsKept.trans (State.mergeChannels_boundsKept _ s.countExpiry.now))
    (State.computeAxes_boundsKept _ order)

/-! ### The resets (R159, R164) -/

theorem State.restarted_boundsKept (s : State) : BoundsKept noWrap s s.restarted := by
  refine ⟨fun _ => ⟨Nat.zero_le _, Nat.zero_le _⟩, fun law => ?_, Store.InRoom.abandoned, fun _ _ => InOrder.nil _⟩
  rw [State.sizeLaw_iff] at law ⊢
  obtain ⟨-, -, channels, axes, profiles, -⟩ := law
  exact ⟨rfl, rfl, channels, axes, profiles, rfl, Merge.sized_reset .., rfl, rfl⟩

theorem exec_powerOnReset_boundsKept {s u : State} {t : Nat} (taken : exec (.powerOnReset t) s = .next u) :
    BoundsKept noWrap s u := by
  cases taken
  refine ⟨fun _ => ⟨Nat.zero_le _, Nat.zero_le _⟩, fun _ => (State.sizeLaw_iff _).2 ?_,
    fun _ => Store.InRoom.empty, fun _ _ => InOrder.nil _⟩
  exact ⟨rfl, rfl, rfl, rfl, rfl, rfl, Merge.sized_reset .., rfl, rfl⟩

/-! ### A command keeps the bounds -/

section
variable {s t v : State}

theorem BoundsKept.answer (h : BoundsKept noWrap s t) (r : Result) (data : List Byte) : BoundsKept noWrap s (t.answer r data) :=
  h.trans (.of_tables (by simp))

theorem BoundsKept.unlessReset (started : BoundsKept noWrap s t) (made : BoundsKept noWrap s v) :
    BoundsKept noWrap s (t.unlessReset v) := .ite started made

theorem BoundsKept.orHold (h : HeldChange) (started : BoundsKept noWrap s t) (made : BoundsKept noWrap s v) :
    BoundsKept noWrap s (t.orHold h v) := .ite (started.trans (.of_tables (by simp [Merge.Sized]))) made

theorem BoundsKept.onPort (started : BoundsKept noWrap s t) (taken : BoundsKept noWrap s v) :
    BoundsKept noWrap s (t.onPort v) := by
  rcases t.onPort_cases v with takes | ⟨port, refused⟩
  · rwa [takes]
  · rw [refused]; exact started.trans (.of_tables (by simp))

theorem BoundsKept.command (started : BoundsKept noWrap s t) (taken : BoundsKept noWrap s v) :
    BoundsKept noWrap s (t.command v) := .onPort started (.ite taken (started.answer _ _))

theorem BoundsKept.configCommand (started : BoundsKept noWrap s t) (taken : BoundsKept noWrap s v) :
    BoundsKept noWrap s (t.configCommand v) := .command started (.ite taken (started.answer _ _))

end

theorem State.advance_boundsKept (s : State) (t : Nat) : BoundsKept noWrap s (s.advance t) := .of_tables (by simp)

theorem State.markSelf_length (s : State) (station : Nat) : (s.markSelf station).length = 15 := by
  simp [State.markSelf, stations]

theorem postPairs_length (pairs : List (Byte × Word16)) (posted : List (Option Int)) :
    (postPairs pairs posted).length = posted.length := by
  induction pairs generalizing posted with
  | nil => rfl
  | cons p pairs ih => exact (ih _).trans List.length_set

/-- STORE PROFILE begins a write only for one of the 16 numbers, and only where there is room (R25). -/
theorem exec_storeProfile_boundsKept {s u : State} {profile stretch endMode : Byte} {length : Word16} {samples : List Word16}
    (taken : exec (.storeProfile profile stretch endMode length samples) s = .next u) : BoundsKept noWrap s u := by
  have stays : BoundsKept noWrap s s := .refl s
  cases taken
  refine .onPort stays (.ite (.of_tables (by simp)) (.configCommand stays (.ite_of (fun _ => stays.answer _ _)
    fun given => ?_)))
  cases EndMode.ofCode endMode.toNat with
  | none => exact stays.answer _ _
  | some mode =>
    refine .ite (stays.answer _ _) (.ite_of (fun _ => stays.answer _ _) fun fits => .answer ?_ _ _)
    simp only [Config.storeSamples] at fits
    have number : profile.toNat ≤ 15 := Nat.not_lt.1 fun above => given (.inl above)
    exact .of_tables (by simpa using fun room => Store.InRoom.begun room number (by simp; omega))

theorem exec_profileWriteComplete_boundsKept {s u : State} (taken : exec .profileWriteComplete s = .next u) :
    BoundsKept noWrap s u := by
  simp only [exec, execProfileWriteComplete] at taken
  split at taken <;> cases taken
  next w writing =>
    refine .unlessReset (.refl s) ?_
    exact .of_tables (by simpa [Store.written] using fun room => Store.InRoom.written room writing)
  next => exact .refl s

/-- JOIN (R111). -/
theorem State.joinNow_boundsKept (s : State) : BoundsKept noWrap s s.joinNow := by
  have begun : BoundsKept noWrap s s.joinBegun := (s.enterNode_boundsKept .joining).trans (by
    simp only [State.joinBegun]; exact .of_tables (by simp))
  by_cases station : s.cfg.station = 0
  · rw [State.joinNow_listener station]
    exact .trans (begun.trans (.of_tables (by simp))) (State.revote_boundsKept _)
  · rw [State.joinNow_talking station]
    have self : BoundsKept noWrap s.joinBegun s.joinBegun.selfBegun := by
      simp only [State.selfBegun]; exact .of_tables (by simp)
    have sources : BoundsKept noWrap s.joinBegun.selfBegun s.joinBegun.selfBegun.joinSources :=
      .orHold _ (.refl _) (State.createOwnEntries_boundsKept _)
    exact .trans ((begun.trans self).trans (sources.trans (.of_tables (by simp)))) (State.revote_boundsKept _)

theorem State.reportCompleted_boundsKept (s : State) (e : TxEntry) (groupEnds : Bool) :
    BoundsKept noWrap s (s.reportCompleted e groupEnds) := .of_tables (by simp)

theorem State.startSender_boundsKept (s : State) : BoundsKept noWrap s s.startSender := .of_tables (by simp)

theorem State.queueBye_boundsKept (s : State) : BoundsKept noWrap s s.queueBye := .of_tables (by simp)

theorem State.leaveTalking_boundsKept (s : State) : BoundsKept noWrap s s.leaveTalking := by
  simp only [State.leaveTalking]
  refine .trans (.trans (.trans (s.enterNode_boundsKept .leaving) ?_) (State.revote_boundsKept _)) (State.queueBye_boundsKept _)
  exact .of_tables (by simp)

theorem State.leaveListening_boundsKept (s : State) : BoundsKept noWrap s s.leaveListening := by
  simp only [State.leaveListening]
  refine .ite (.trans (.trans (s.enterNode_boundsKept .leaving) ?_) (State.revote_boundsKept _))
    (.trans (.trans (.trans (s.enterNode_boundsKept .leaving) ?_) (State.turnStage_boundsKept _))
      (State.completeLeave_boundsKept _))
  · exact .of_tables (by simp [Merge.Sized])
  · exact .of_tables (by simp)

end

/-- No command passes a bound, changes a table's size, leaves the store's room or stamps a record out of order. -/
theorem exec_boundsKept {c : Instr} {s u : State} (taken : exec c s = .next u) :
    BoundsKept s.CountFits s u := by
  have stays : BoundsKept s.CountFits s s := .refl s
  cases c with
  | powerOnReset => exact exec_powerOnReset_boundsKept taken
  | haltNChange t low =>
    simp only [exec, execHaltNChange] at taken
    split at taken <;> cases taken
    · exact .of_tables (by simp)
    · exact .unlessReset (.of_tables (by simp)) (.trans (.of_tables (by simp)) (State.revote_boundsKept _))
  | unknownCommand => cases taken; exact .command stays (stays.answer _ _)
  | transactionEnd clocked =>
    cases taken
    exact .ite (.of_tables (by simp [State.closeTransaction, List.drop_sublist])) (.of_tables (by simp))
  | setStation =>
    cases taken
    exact .configCommand stays (.ite (stays.answer _ _) (.answer (.of_tables (by simp [s.markSelf_length])) _ _))
  | setTiming => cases taken; exact .configCommand stays (.of_tables (by simp))
  | defineChannel channel policy =>
    cases taken
    refine .configCommand stays ?_
    cases Policy.ofCode policy.toNat
    exacts [stays.answer _ _, .ite (stays.answer _ _) (.of_tables (by simp))]
  | defineAxis => cases taken; exact .configCommand stays (.ite (stays.answer _ _) (.of_tables (by simp)))
  | storeProfile => exact exec_storeProfile_boundsKept taken
  | profileWriteComplete => exact exec_profileWriteComplete_boundsKept taken
  | clearProfiles =>
    cases taken
    exact .configCommand stays (.answer (.of_tables (by simpa using Store.InRoom.cleared)) _ _)
  | setStage => cases taken; exact .configCommand stays (.of_tables (by simp))
  | routeAlerts cls route =>
    cases taken
    refine .configCommand stays ?_
    cases EventClass.ofCode cls.toNat <;> cases Route.ofCode route.toNat <;> exact .of_tables (by simp)
  | join t =>
    cases taken
    exact .configCommand (s.advance_boundsKept t) (.answer (.trans (s.advance_boundsKept t) (State.joinNow_boundsKept _)) _ _)
  | leave t =>
    cases taken
    have began := s.advance_boundsKept (noWrap := s.CountFits) t
    refine .command began (.ite (.answer (.ite ?_ ?_) _ _) (began.answer _ _))
    exacts [began.trans (State.leaveListening_boundsKept _), began.trans (State.leaveTalking_boundsKept _)]
  | restart t =>
    cases taken
    exact .command (s.advance_boundsKept t) (.answer (.trans (s.advance_boundsKept t) (State.restarted_boundsKept _)) _ _)
  | quiet => cases taken; exact .command stays (.ite (.of_tables (by simp)) (stays.answer _ _))
  | speak => cases taken; exact .command (.of_tables (by simp)) (.ite (.of_tables (by simp)) (.of_tables (by simp)))
  | post =>
    cases taken
    exact .onPort stays (.ite (.of_tables (by simp)) (.command stays (.ite (stays.answer _ _) (.ite (stays.answer _ _)
      (.answer (.of_tables (by simp [postPairs_length])) _ _)))))
  | fire =>
    cases taken
    refine .command (.of_tables (by simp)) (.ite ?_ (.ite ?_ ?_)) <;> exact .of_tables (by simp)
  | cancel => cases taken; exact .command (.of_tables (by simp)) (.ite (.of_tables (by simp)) (.of_tables (by simp)))
  | askMode t mode =>
    cases taken
    refine .command (.of_tables (by simp)) ?_
    cases Mode.ofCode mode.toNat
    exacts [(.of_tables (by simp)), .answer (.trans (.of_tables (by simp)) (State.revote_boundsKept _)) _ _]
  | status => cases taken; exact .onPort stays (stays.answer _ _)
  | takeOutput => cases taken; exact .command stays (stays.answer _ _)
  | takeChannels => cases taken; exact .command stays (stays.answer _ _)
  | peer => cases taken; exact .command stays (.ite (stays.answer _ _) (stays.answer _ _))
  | takeEvents => cases taken; exact .command stays (.ite (stays.answer _ _) (.of_tables (by simp)))
  | outputPeriodExpiry order whole =>
    cases taken
    have begins := State.beginPass_boundsKept s.finishPass order
    rw [State.CountFits, State.finishPass_count] at begins
    have begun := s.finishPass_boundsKept.trans begins
    exact .unlessReset stays (.ite (begun.trans (State.finishPass_boundsKept _)) begun)
  | silenceTimerExpiry x =>
    simp only [exec, execSilenceTimerExpiry] at taken
    split at taken <;> cases taken
    · refine .unlessReset stays (.orHold _ (.of_tables (by simp)) ?_)
      exact .trans (s.advance_boundsKept _) (State.losePeer_boundsKept _ x)
    · exact stays
  | forgetTimerExpiry x =>
    simp only [exec, execForgetTimerExpiry] at taken
    split at taken <;> cases taken
    · refine .unlessReset stays (.orHold _ (.of_tables (by simp)) ?_)
      exact .trans (s.advance_boundsKept _) (State.forgetPeer_boundsKept _ x)
    · exact stays
  | assemblyTimeLimit x =>
    simp only [exec, execAssemblyTimeLimit] at taken
    split at taken <;> cases taken
    exacts [.unlessReset stays (.of_tables (by simp)), stays]
  | announceHoldOffExpiry =>
    simp only [exec, execAnnounceHoldOffExpiry] at taken
    split at taken <;> cases taken
    exacts [.unlessReset stays (.ite (.of_tables (by simp)) (.of_tables (by simp))), stays]
  | joinWindowExpiry =>
    cases taken
    refine .unlessReset stays ?_
    split
    next started _ =>
      have entered : BoundsKept s.CountFits s (s.windowEnded started) :=
        .trans (.of_tables (by simp)) (State.enterNode_boundsKept _ .active)
      have voted := entered.trans (State.revote_boundsKept _)
      exact .ite voted (voted.trans (State.startSender_boundsKept _))
    next => exact stays
  | levelIntervalExpiry =>
    simp only [exec, execLevelIntervalExpiry] at taken
    split at taken <;> cases taken
    exacts [.unlessReset stays (.ite (.of_tables (by simp)) stays), stays]
  | refreshTimerExpiry =>
    simp only [exec, execRefreshTimerExpiry] at taken
    split at taken <;> cases taken
    exacts [.unlessReset stays (.of_tables (by simp)), stays]
  | staleDeadline index =>
    simp only [exec, execStaleDeadline] at taken
    split at taken
    · split at taken <;> cases taken
      · exact stays
      · refine .ite (.ite (.of_tables (by simp)) (.of_tables (by simp))) (.trans ?_ (State.dropStale_boundsKept _ index _))
        exact .ite (.of_tables (by simp)) (.of_tables (by simp))
    · cases taken; exact stays
  | carrierStart => cases taken; exact .ite (.of_tables (by simp)) (.of_tables (by simp))
  | gapEnd =>
    simp only [exec, execGapEnd] at taken
    split at taken <;> cases taken
    exacts [.ite (.of_tables (by simp)) (.of_tables (by simp)), stays]
  | echoCheck heard =>
    simp only [exec, execEchoCheck] at taken
    split at taken
    · split at taken <;> cases taken
      · exact .of_tables (by simp)
      · have failed := State.attemptFailed_boundsKept (noWrap := s.CountFits)
        refine .ite (.trans (.trans (.trans ?_ (failed _)) (State.report_boundsKept ..)) (State.enterFault_boundsKept _))
          (.trans ?_ (failed _)) <;> exact .of_tables (by simp)
    · cases taken; exact stays
  | collision bit =>
    simp only [exec, execCollision] at taken
    split at taken
    · split at taken <;> cases taken
      exacts [(.of_tables (by simp)), stays]
    · cases taken; exact stays
  | jamEnd =>
    simp only [exec, execJamEnd] at taken
    split at taken <;> cases taken
    · refine .ite (.trans ?_ (State.dropCurrent_boundsKept _ _)) (.trans ?_ (State.attemptFailed_boundsKept _)) <;>
        exact .of_tables (by simp)
    · exact stays
  | backoffWaitEnd =>
    simp only [exec, execBackoffWaitEnd] at taken
    split at taken <;> cases taken
    exacts [.ite (.of_tables (by simp)) (.of_tables (by simp)), stays]
  | attemptCompletes =>
    simp only [exec, execAttemptCompletes] at taken
    split at taken <;> cases taken
    · refine .trans (.trans ?_ (State.offerBurst_boundsKept _ _)) (State.reportCompleted_boundsKept _ _ _)
      exact .of_tables (by simp)
    · exact stays
  | leaveCompletion =>
    cases taken
    exact .unlessReset stays (.ite (.orHold _ stays s.completeLeave_boundsKept) stays)
  | runEnd t bits =>
    simp only [exec, execRunEnd] at taken
    cases taken
    refine .ite (.trans ?_ (State.takeRun_boundsKept _ _)) ?_ <;> exact .of_tables (by simp)
  | applyBurst => cases taken; exact .unlessReset stays (.orHold _ stays s.applyOldest_boundsKept)
  | rstNFall =>
    cases taken
    exact .of_tables (by simpa +contextual [Merge.Sized] using Store.InRoom.abandoned)

theorem step_boundsKept {s u : State} (taken : step s = .next u) :
    BoundsKept s.CountFits s u := by
  simp only [step] at taken
  split at taken
  next c rest _ =>
    have started : BoundsKept s.CountFits s { s with pending := rest } := .of_tables (by simp)
    exact started.trans (exec_boundsKept taken)
  next =>
    cases taken
    exact s.finishPass_boundsKept

/-- Settles O10: what each operation raises, takes away or writes anew keeps the bounds, the sizes and the order of the records,
so every step does. -/
theorem queuesAndSizesKept : Obligations.QueuesAndSizesKept := by
  refine ⟨fun s u queues sizes taken => ?_, fun s u law taken => ?_, fun s u law noWrap taken => ?_⟩ <;>
    obtain ⟨queuesKept, sizesKept, storeKept, orderKept⟩ := step_boundsKept taken
  · exact ⟨queuesKept queues, sizesKept sizes⟩
  · exact storeKept law
  · exact orderKept noWrap law

end Sys2Proof.Machine
end
